-- ==== Sys2Proof/Word.lean ====
section
/-! DEFINITION. The word types of the machine (00_scope.md R8 to R10): bytes, 16-bit words, register
indices. Every value is unsigned (R9). -/

namespace Sys2Proof

/-- A memory cell or general register (10_state.md R20, R30). -/
abbrev Byte := BitVec 8

/-- An instruction word, I, PC or a return address (10_state.md R24, R28, R29). -/
abbrev Word := BitVec 16

/-- The index of a general register, the fields X and Y (30_encoding.md R70, R72). -/
abbrev Reg := Fin 16

/-- The address immediate NNN (30_encoding.md R70). -/
abbrev Addr12 := BitVec 12

/-- A snapshot of the 16 keys: bit k is the spec's `keys[k]`, set when key k is held
(00_scope.md R14, 44_input.md R169). -/
abbrev Keys := BitVec 16

/-- VF, the register that doubles as the flag output (10_state.md R22). -/
abbrev vF : Reg := 15

end Sys2Proof
end

