-- ==== Sys2Proof/Syntax.lean ====
section
/-! DEFINITION. The instructions: one constructor per row of opcode_table.json (30_encoding.md R73, R74,
R84), its arguments the row's fields. Words that match no row (R80's `Unknown`) are no instruction; the
decoder names them apart. -/

namespace Sys2Proof

inductive Instr where
  /-- 0NNN (SYS NNN): no-op, R101. -/
  | sys (nnn : Addr12)
  /-- 00E0 (CLS), R162. -/
  | cls
  /-- 00EE (RET), R102. -/
  | ret
  /-- 1NNN (JP NNN), R103. -/
  | jp (nnn : Addr12)
  /-- 2NNN (CALL NNN), R104. -/
  | call (nnn : Addr12)
  /-- 3XNN (SE VX, NN), R108. -/
  | seImm (x : Reg) (nn : Byte)
  /-- 4XNN (SNE VX, NN), R109. -/
  | sneImm (x : Reg) (nn : Byte)
  /-- 5XY0 (SE VX, VY), R110; `n` is the low nibble, which LOW_NIBBLE_5_9 ignores or refuses (R76). -/
  | seReg (x y : Reg) (n : BitVec 4)
  /-- 6XNN (LD VX, NN), R121. -/
  | ldImm (x : Reg) (nn : Byte)
  /-- 7XNN (ADD VX, NN), R122. -/
  | addImm (x : Reg) (nn : Byte)
  /-- 8XY0 (LD VX, VY), R123. -/
  | ldReg (x y : Reg)
  /-- 8XY1 (OR VX, VY), R124. -/
  | orReg (x y : Reg)
  /-- 8XY2 (AND VX, VY), R125. -/
  | andReg (x y : Reg)
  /-- 8XY3 (XOR VX, VY), R126. -/
  | xorReg (x y : Reg)
  /-- 8XY4 (ADD VX, VY), R127. -/
  | addReg (x y : Reg)
  /-- 8XY5 (SUB VX, VY), R128. -/
  | sub (x y : Reg)
  /-- 8XY6 (SHR VX), R129; `y` is decoded and ignored (R77). -/
  | shr (x y : Reg)
  /-- 8XY7 (SUBN VX, VY), R130. -/
  | subn (x y : Reg)
  /-- 8XYE (SHL VX), R131; `y` is decoded and ignored (R77). -/
  | shl (x y : Reg)
  /-- 9XY0 (SNE VX, VY), R111; `n` as for 5XY0 (R76). -/
  | sneReg (x y : Reg) (n : BitVec 4)
  /-- ANNN (LD I, NNN), R141. -/
  | ldI (nnn : Addr12)
  /-- BNNN (JP V0, NNN), R105. -/
  | jpV0 (nnn : Addr12)
  /-- CXNN (RND VX, NN), R133. -/
  | rnd (x : Reg) (nn : Byte)
  /-- DXYN (DRW VX, VY, N), R163. -/
  | drw (x y : Reg) (n : BitVec 4)
  /-- EX9E (SKP VX), R170. -/
  | skp (x : Reg)
  /-- EXA1 (SKNP VX), R171. -/
  | sknp (x : Reg)
  /-- FX07 (LD VX, DT), R180. -/
  | ldFromDt (x : Reg)
  /-- FX0A (LD VX, K), R172. -/
  | waitKey (x : Reg)
  /-- FX15 (LD DT, VX), R181. -/
  | ldDt (x : Reg)
  /-- FX18 (LD ST, VX), R182. -/
  | ldSt (x : Reg)
  /-- FX1E (ADD I, VX), R142. -/
  | addI (x : Reg)
  /-- FX29 (LD F, VX), R143. -/
  | ldFont (x : Reg)
  /-- FX33 (LD B, VX), R144. -/
  | bcd (x : Reg)
  /-- FX55 (LD [I], VX), R145. -/
  | store (x : Reg)
  /-- FX65 (LD VX, [I]), R146. -/
  | load (x : Reg)
  deriving DecidableEq, Repr

end Sys2Proof
end

