-- ==== Sys2Proof/WellFormed.lean ====
section
/-! DEFINITION. Which instruction terms a word stands for. The field types carry every bound of
30_encoding.md R70; the one check left is R75's: class 0 matches whole words, so 0NNN never has
NNN = 0x0E0 (that word is 00E0) or NNN = 0x0EE (that word is 00EE). -/

namespace Sys2Proof

/-- The instruction is what its own word decodes to (30_encoding.md R74, R75). -/
def Instr.wellFormed : Instr → Bool
  | .sys nnn => nnn != 0x0E0#12 && nnn != 0x0EE#12
  | _ => true

/-- `Instr.wellFormed` as a proposition. -/
abbrev Instr.WellFormed (i : Instr) : Prop := i.wellFormed = true

end Sys2Proof
end

