-- ==== Sys2Proof/Decode.lean ====
section
/-! DEFINITION. Field extraction (30_encoding.md R71), the decoder (R74, total on every word), the
encoder (R70, R73), and the decoder over bytes, big-endian (20_memory.md R52, R53). -/

namespace Sys2Proof

/-! ## Fields (R71) -/

/-- c, bits 15..12. -/
def fieldC (w : Word) : BitVec 4 := w.extractLsb' 12 4
/-- X, bits 11..8. -/
def fieldX (w : Word) : Reg := (w.extractLsb' 8 4).toFin
/-- Y, bits 7..4. -/
def fieldY (w : Word) : Reg := (w.extractLsb' 4 4).toFin
/-- N, bits 3..0. -/
def fieldN (w : Word) : BitVec 4 := w.extractLsb' 0 4
/-- NN, bits 7..0. -/
def fieldNN (w : Word) : Byte := w.extractLsb' 0 8
/-- NNN, bits 11..0. -/
def fieldNNN (w : Word) : Addr12 := w.extractLsb' 0 12

/-! ## The decoder (R74) -/

/-- What a word is: an instruction of the table, or `Unknown(w)`, which executes as a no-op (R80). -/
inductive Decoded where
  | instr (i : Instr)
  | unknown (w : Word)
  deriving DecidableEq, Repr

/-- Class 0: the whole word selects (R75). -/
def decodeClass0 (w : Word) : Decoded :=
  if w = 0x00E0#16 then .instr .cls
  else if w = 0x00EE#16 then .instr .ret
  else .instr (.sys (fieldNNN w))

/-- Class 8: N selects (R77). -/
def decodeClass8 (w : Word) : Decoded :=
  match fieldN w with
  | 0x0#4 => .instr (.ldReg (fieldX w) (fieldY w))
  | 0x1#4 => .instr (.orReg (fieldX w) (fieldY w))
  | 0x2#4 => .instr (.andReg (fieldX w) (fieldY w))
  | 0x3#4 => .instr (.xorReg (fieldX w) (fieldY w))
  | 0x4#4 => .instr (.addReg (fieldX w) (fieldY w))
  | 0x5#4 => .instr (.sub (fieldX w) (fieldY w))
  | 0x6#4 => .instr (.shr (fieldX w) (fieldY w))
  | 0x7#4 => .instr (.subn (fieldX w) (fieldY w))
  | 0xE#4 => .instr (.shl (fieldX w) (fieldY w))
  | _ => .unknown w

/-- Class E: NN selects (R78). -/
def decodeClassE (w : Word) : Decoded :=
  match fieldNN w with
  | 0x9E#8 => .instr (.skp (fieldX w))
  | 0xA1#8 => .instr (.sknp (fieldX w))
  | _ => .unknown w

/-- Class F: NN selects (R78). -/
def decodeClassF (w : Word) : Decoded :=
  match fieldNN w with
  | 0x07#8 => .instr (.ldFromDt (fieldX w))
  | 0x0A#8 => .instr (.waitKey (fieldX w))
  | 0x15#8 => .instr (.ldDt (fieldX w))
  | 0x18#8 => .instr (.ldSt (fieldX w))
  | 0x1E#8 => .instr (.addI (fieldX w))
  | 0x29#8 => .instr (.ldFont (fieldX w))
  | 0x33#8 => .instr (.bcd (fieldX w))
  | 0x55#8 => .instr (.store (fieldX w))
  | 0x65#8 => .instr (.load (fieldX w))
  | _ => .unknown w

/-- `decode(w)` of R74. 5XYN and 9XYN keep their low nibble: whether it is ignored or refused is a
parameter, checked where the two instructions execute (R76; log 13). -/
def decode (w : Word) : Decoded :=
  match fieldC w with
  | 0x0#4 => decodeClass0 w
  | 0x1#4 => .instr (.jp (fieldNNN w))
  | 0x2#4 => .instr (.call (fieldNNN w))
  | 0x3#4 => .instr (.seImm (fieldX w) (fieldNN w))
  | 0x4#4 => .instr (.sneImm (fieldX w) (fieldNN w))
  | 0x5#4 => .instr (.seReg (fieldX w) (fieldY w) (fieldN w))
  | 0x6#4 => .instr (.ldImm (fieldX w) (fieldNN w))
  | 0x7#4 => .instr (.addImm (fieldX w) (fieldNN w))
  | 0x8#4 => decodeClass8 w
  | 0x9#4 => .instr (.sneReg (fieldX w) (fieldY w) (fieldN w))
  | 0xA#4 => .instr (.ldI (fieldNNN w))
  | 0xB#4 => .instr (.jpV0 (fieldNNN w))
  | 0xC#4 => .instr (.rnd (fieldX w) (fieldNN w))
  | 0xD#4 => .instr (.drw (fieldX w) (fieldY w) (fieldN w))
  | 0xE#4 => decodeClassE w
  | _ => decodeClassF w

/-! ## The encoder -/

/-- A word of the form c NNN (R70). -/
def encodeNNN (c : BitVec 4) (nnn : Addr12) : Word := c ++ nnn
/-- A word of the form c X NN (R70). -/
def encodeXNN (c : BitVec 4) (x : Reg) (nn : Byte) : Word := c ++ (BitVec.ofFin (w := 4) x ++ nn)
/-- A word of the form c X Y N (R70). -/
def encodeXYN (c : BitVec 4) (x y : Reg) (n : BitVec 4) : Word :=
  c ++ (BitVec.ofFin (w := 4) x ++ (BitVec.ofFin (w := 4) y ++ n))

/-- The word of an instruction, from the match and field columns of opcode_table.json (R73). -/
def encode : Instr → Word
  | .sys nnn => encodeNNN 0x0#4 nnn
  | .cls => 0x00E0#16
  | .ret => 0x00EE#16
  | .jp nnn => encodeNNN 0x1#4 nnn
  | .call nnn => encodeNNN 0x2#4 nnn
  | .seImm x nn => encodeXNN 0x3#4 x nn
  | .sneImm x nn => encodeXNN 0x4#4 x nn
  | .seReg x y n => encodeXYN 0x5#4 x y n
  | .ldImm x nn => encodeXNN 0x6#4 x nn
  | .addImm x nn => encodeXNN 0x7#4 x nn
  | .ldReg x y => encodeXYN 0x8#4 x y 0x0#4
  | .orReg x y => encodeXYN 0x8#4 x y 0x1#4
  | .andReg x y => encodeXYN 0x8#4 x y 0x2#4
  | .xorReg x y => encodeXYN 0x8#4 x y 0x3#4
  | .addReg x y => encodeXYN 0x8#4 x y 0x4#4
  | .sub x y => encodeXYN 0x8#4 x y 0x5#4
  | .shr x y => encodeXYN 0x8#4 x y 0x6#4
  | .subn x y => encodeXYN 0x8#4 x y 0x7#4
  | .shl x y => encodeXYN 0x8#4 x y 0xE#4
  | .sneReg x y n => encodeXYN 0x9#4 x y n
  | .ldI nnn => encodeNNN 0xA#4 nnn
  | .jpV0 nnn => encodeNNN 0xB#4 nnn
  | .rnd x nn => encodeXNN 0xC#4 x nn
  | .drw x y n => encodeXYN 0xD#4 x y n
  | .skp x => encodeXNN 0xE#4 x 0x9E#8
  | .sknp x => encodeXNN 0xE#4 x 0xA1#8
  | .ldFromDt x => encodeXNN 0xF#4 x 0x07#8
  | .waitKey x => encodeXNN 0xF#4 x 0x0A#8
  | .ldDt x => encodeXNN 0xF#4 x 0x15#8
  | .ldSt x => encodeXNN 0xF#4 x 0x18#8
  | .addI x => encodeXNN 0xF#4 x 0x1E#8
  | .ldFont x => encodeXNN 0xF#4 x 0x29#8
  | .bcd x => encodeXNN 0xF#4 x 0x33#8
  | .store x => encodeXNN 0xF#4 x 0x55#8
  | .load x => encodeXNN 0xF#4 x 0x65#8

/-! ## Bytes -/

/-- Why no word can be read from a list of bytes. -/
inductive Truncated where
  /-- There is no byte at all. -/
  | noByte
  /-- There is one byte; an instruction is two (R82). -/
  | oneByte (b : Byte)
  deriving DecidableEq, Repr

/-- Two bytes as a word: the byte at the lower address is bits 15..8 (20_memory.md R52, R53). -/
def wordOfBytes (hi lo : Byte) : Word := hi ++ lo

/-- The byte of a word that is stored at the lower address, bits 15..8 (R53). -/
def highByte (w : Word) : Byte := w.extractLsb' 8 8
/-- The byte of a word that is stored at the higher address, bits 7..0 (R53). -/
def lowByte (w : Word) : Byte := w.extractLsb' 0 8

/-- The instruction at the head of a list of bytes, and the bytes after it. -/
def decodeBytes : List Byte → Except Truncated (Decoded × List Byte)
  | [] => .error .noByte
  | [b] => .error (.oneByte b)
  | hi :: lo :: rest => .ok (decode (wordOfBytes hi lo), rest)

/-- The instruction word whose bits are `w` in opcode_table.json's numbering, `nbits` of them given and
every bit above zero. All rows give 16 bits (R82). -/
def tableWord (nbits w : Nat) : Word := BitVec.ofNat 16 (w % 2 ^ nbits)

/-- The instruction the decoder reads from the bytes of `tableWord nbits w`, as memory stores them; none
for an `Unknown` word, which is no row of the table (R80). -/
def decodeTableWord (nbits w : Nat) : Option Instr :=
  match decodeBytes [highByte (tableWord nbits w), lowByte (tableWord nbits w)] with
  | .ok (.instr i, _) => some i
  | _ => none

end Sys2Proof
end

