-- ==== Sys2Proof/Config.lean ====
section
/-! DEFINITION. The parameters of 00_scope.md R7: sizes the spec fixes, choices an implementation makes
(`Params`, held in State so that every choice is covered; log 5), OPEN values and free inputs (opaque:
nothing can evaluate them or prove a value of them). -/

namespace Sys2Proof

/-! ## Sizes the spec fixes (R7) -/

/-- MEM_SIZE: cells at 0x000..0xFFE (10_state.md R30, conflict C1; log 11). -/
def Config.memSize : Nat := 4095
/-- FONT_BASE + FONT_SIZE: the first address after the font (10_state.md R33). -/
def Config.fontEnd : Nat := 0x50
/-- PROG_BASE: where an image is loaded and execution starts (70_reset_and_hazards.md R231, R236). -/
def Config.progBase : Nat := 0x200
/-- MAX_IMAGE: the longest image (R236). -/
def Config.maxImage : Nat := 0xDFF
/-- ADDR_LIMIT: the threshold of FX1E's flag (42_index_memory.md R142). -/
def Config.addrLimit : Nat := 0xFFF
/-- DISP_W (10_state.md R31). -/
def Config.dispW : Nat := 64
/-- DISP_H (10_state.md R31). -/
def Config.dispH : Nat := 32
/-- NUM_KEYS (44_input.md R169). -/
def Config.numKeys : Nat := 16

/-! ## Choices of the implementation (R7) -/

/-- DRAW_EDGE: what DXYN does with set bits outside the grid (43_display.md R161). -/
inductive DrawEdge where
  | clip | fault
  deriving DecidableEq, Repr, Inhabited

/-- LOW_NIBBLE_5_9: what the low nibble of 5XYN and 9XYN does (30_encoding.md R76). -/
inductive LowNibble where
  | ignore | refuse
  deriving DecidableEq, Repr, Inhabited

/-- RESET_POLICY: whether reset fills with zero or with draws (10_state.md R43). -/
inductive ResetPolicy where
  | zero | arbitrary
  deriving DecidableEq, Repr, Inhabited

/-- The parameters of one implementation. -/
structure Params where
  /-- STACK_DEPTH: none is unbounded, `some d` bounds the call stack (10_state.md R29). -/
  stackDepth : Option Nat
  drawEdge : DrawEdge
  lowNibble : LowNibble
  /-- LOADSTORE_INCREMENTS_I (42_index_memory.md R145, R146). -/
  incrementsI : Bool
  resetPolicy : ResetPolicy
  deriving DecidableEq, Repr

/-- The values R7 tells a model to use. -/
def Params.default : Params where
  stackDepth := none
  drawEdge := .clip
  lowNibble := .ignore
  incrementsI := false
  resetPolicy := .zero

/-! ## OPEN values (R7, R182; log 9) -/

/-- The waveform kinds of a tone (60_exceptions.md R217). -/
inductive Waveform where
  | sine | square
  deriving DecidableEq, Repr, Inhabited

/-- TONE_FREQ, OPEN. -/
opaque Config.toneFreq : Nat
/-- TONE_AMPLITUDE, OPEN. -/
opaque Config.toneAmplitude : Nat
/-- TONE_WAVEFORM, OPEN. -/
opaque Config.toneWaveform : Waveform
/-- TONE_UNIT, OPEN: the duration of one unit of ST. -/
opaque Config.toneUnit : Nat

/-! ## Free inputs, under no law (R14, R213, R215; logs 1, 2, 15) -/

/-- The key snapshot of the n-th call, when the driver's queue does not give one. -/
opaque Config.keys : Nat → Keys
/-- The random byte of the n-th call, when the driver's queue does not give one. -/
opaque Config.rnd : Nat → Byte
/-- How many ticks come before the n-th call, when the driver's queue gives no call. -/
opaque Config.ticks : Nat → Nat

/-- What a reset under RESET_POLICY = arbitrary draws: the rows of R43's table marked †. -/
structure ResetDraw where
  /-- The byte at each address; those outside the font are used. -/
  ram : Nat → Byte
  v : Vector Byte 16
  i : Word
  dt : Byte
  st : Byte
  disp : Vector (BitVec 64) 32
  deriving Inhabited

/-- The draw of a reset that is the n-th call. -/
opaque Config.resetDraw : Nat → ResetDraw

end Sys2Proof
end

