-- ==== Sys2Proof/Machine/State.lean ====
section
/-! DEFINITION. The state of the machine: the spec's record (10_state.md R42) field by field, then the
model's own fields, which hold what lies at the core's boundary (the driver's calls, what a call
returned, the implementation parameters); the fault causes (60_exceptions.md R202); the state after
reset (R43). -/

namespace Sys2Proof.Machine

/-- The nine fault causes of R202. Each is raised by an instruction or by the fetch, is recorded in the
fault latch `State.fault`, and leaves everything else as it was (R203). A raise is a NEXT state with the
latch set, because the spec describes that state; no step of this model answers `Outcome.fault` (log 3).
Safe: the machine halts where the spec says it halts. -/
inductive Fault where
  /-- Code 1, raised by every step's fetch when PC + 1 is no cell (20_memory.md R52). Safe. -/
  | fetchBounds
  /-- Code 2, raised by DXYN and FX65 reading past 0xFFE (20_memory.md R54). Safe. -/
  | readBounds
  /-- Code 3, raised by FX33 and FX55 writing past 0xFFE (20_memory.md R54). Safe. -/
  | writeBounds
  /-- Code 4, raised by FX33 and FX55 writing below 0x050 (20_memory.md R57). Safe. -/
  | fontWrite
  /-- Code 5, raised by 00EE on an empty call stack (40_control.md R102). Safe. -/
  | stackUnderflow
  /-- Code 6, raised by 2NNN on a full stack, with a bounded STACK_DEPTH only (40_control.md R104). Safe. -/
  | stackOverflow
  /-- Code 7, raised by EX9E and EXA1 for VX ≥ 0x10 (44_input.md R169). Safe. -/
  | keyIndex
  /-- Code 8, raised by DXYN for a set bit outside the grid, with DRAW_EDGE = fault only (43_display.md R161). Safe. -/
  | drawEdge
  /-- Code 9, raised by 5XYN and 9XYN with N ≠ 0, with LOW_NIBBLE_5_9 = refuse only (30_encoding.md R76). Safe. -/
  | decodeRefused
  deriving DecidableEq, Repr

/-- The cases to which the model gives no meaning. -/
inductive Refusal where
  /-- Raised by an arm of `exec` whose instruction has no meaning yet. Safe. No arm does. -/
  | notModelled (mnemonic : String)
  /-- Raised by a load call after the first step or a second load in one reset, for which the spec gives
  no semantics (92_eei_decisions.md D33, 93_implementation_defined.md U15 `refuse`; log 8). Safe. -/
  | loadOutOfTurn
  deriving DecidableEq, Repr

/-- The `value` of a fault record (R202): the offending operand. -/
inductive FaultValue where
  /-- KeyIndex: VX. -/
  | key (vx : Byte)
  /-- DrawEdge: (VX, VY). -/
  | point (vx vy : Byte)
  deriving DecidableEq, Repr

/-- A fault record {code, name, pc, word, addr, value} (R202); the code is `Fault.code name`. -/
structure FaultRecord where
  name : Fault
  /-- The address of the faulting instruction. -/
  pc : Word
  /-- Its word; absent for FetchBounds. -/
  word : Option Word
  /-- The offending address, where one exists. -/
  addr : Option Nat
  /-- The offending operand, where one exists. -/
  value : Option FaultValue
  deriving DecidableEq, Repr

/-- A tone request (60_exceptions.md R217). -/
structure ToneRequest where
  frequency : Nat
  duration : Nat
  amplitude : Nat
  waveform : Waveform
  deriving DecidableEq, Repr

/-- What a call returns to the driver: a step's status (R200) or a load's (70_reset_and_hazards.md R236). -/
inductive Status where
  | ok
  | waiting
  | notLoaded
  | fault (f : FaultRecord)
  | loadOk
  | loadError
  deriving DecidableEq, Repr

/-- A call of the driver (60_exceptions.md R220). -/
inductive HostCall where
  /-- step(keys, rnd), R200. -/
  | step (keys : Keys) (rnd : Byte)
  /-- tick(), R212. -/
  | tick
  /-- load(image), R236; none when the source cannot be opened. -/
  | load (image : Option (List Byte))
  /-- reset(), R230. -/
  | reset
  deriving DecidableEq, Repr

structure State where
  /-- Memory: the cells that differ from the reset contents, addresses rising (R30). -/
  mem : List Host.Cell
  /-- V0..VF (R20). -/
  v : Vector Byte 16
  /-- The index register (R28). -/
  i : Word
  /-- The program counter (R24). -/
  pc : Word
  /-- The call stack, bottom first, top last (R29). -/
  stack : List Word
  /-- The delay timer (R32). -/
  dt : Byte
  /-- The sound timer (R32). -/
  st : Byte
  /-- The display, row by row from the top; the leftmost pixel of a row is its most significant bit
  (R31; log 12). -/
  disp : Vector (BitVec 64) 32
  /-- The `loaded` latch (R36). -/
  loaded : Bool
  /-- The fault latch (R40). -/
  fault : Option FaultRecord
  /-- MODEL: the implementation's parameters, fixed for a machine (00_scope.md R7; log 5). -/
  params : Params
  /-- MODEL: the driver's coming calls, the next one first (R220; log 1). -/
  host : List HostCall
  /-- MODEL: how many calls have been served; the index of the free inputs (log 1). -/
  draws : Nat
  /-- MODEL: what the last call returned to the driver (R200, R236; log 4). -/
  status : Option Status
  /-- MODEL: the output events of the last call (R200, R217; log 4). -/
  events : List ToneRequest
  /-- MODEL: a load call is still in its turn: no load and no step since reset (R220, D33; log 8). -/
  loadOpen : Bool
  deriving DecidableEq, Repr

/-- The machine right after reset, with the default parameters (R43, R230): memory as reset leaves it
(nothing listed), PC at 0x200, everything else zero, empty or clear (logs 5, 7). -/
def State.reset : State where
  mem := []
  v := Vector.replicate 16 0
  i := 0
  pc := 0x200
  stack := []
  dt := 0
  st := 0
  disp := Vector.replicate 32 0
  loaded := false
  fault := none
  params := Params.default
  host := []
  draws := 0
  status := none
  events := []
  loadOpen := true

end Sys2Proof.Machine
end

