-- ==== Sys2Proof/Machine/Memory.lean ====
section
/-! DEFINITION. Memory (10_state.md R30, R33; 20_memory.md): what an unlisted address reads as, reading
and writing one cell, lists of cells, and the checks of an access (00_scope.md R11). -/

namespace Sys2Proof.Machine

/-- The font table FONT (R33): 16 glyphs of 5 bytes, glyph d at 5d..5d+4 (log 6). -/
def fontTable : List Byte :=
  [0xF0, 0x90, 0x90, 0x90, 0xF0] ++ [0x20, 0x60, 0x20, 0x20, 0x70] ++
  [0xF0, 0x10, 0xF0, 0x80, 0xF0] ++ [0xF0, 0x10, 0xF0, 0x10, 0xF0] ++
  [0x90, 0x90, 0xF0, 0x10, 0x10] ++ [0xF0, 0x80, 0xF0, 0x10, 0xF0] ++
  [0xF0, 0x80, 0xF0, 0x90, 0xF0] ++ [0xF0, 0x10, 0x20, 0x40, 0x40] ++
  [0xF0, 0x90, 0xF0, 0x90, 0xF0] ++ [0xF0, 0x90, 0xF0, 0x10, 0xF0] ++
  [0xF0, 0x90, 0xF0, 0x90, 0x90] ++ [0xE0, 0x90, 0xE0, 0x90, 0xE0] ++
  [0xF0, 0x80, 0x80, 0x80, 0xF0] ++ [0xE0, 0x90, 0x90, 0x90, 0xE0] ++
  [0xF0, 0x80, 0xF0, 0x80, 0xF0] ++ [0xF0, 0x80, 0xF0, 0x80, 0x80]

/-- What an unlisted address reads as: the contents reset leaves there, FONT below 0x050 and 0x00 above
(10_state.md R43; log 7). -/
def Memory.fill (a : Nat) : Byte := fontTable.getD a 0

/-- The byte at address `a`. -/
def Memory.read : List Host.Cell → Nat → Byte
  | [], a => Memory.fill a
  | (a', b) :: m, a => if a' = a then b else Memory.read m a

/-- Memory with byte `b` at address `a`, in canonical form: the byte an unlisted address reads as is not
listed. -/
def Memory.write : List Host.Cell → Nat → Byte → List Host.Cell
  | [], a, b => if b = Memory.fill a then [] else [(a, b)]
  | (a', b') :: m, a, b =>
    if a < a' then
      if b = Memory.fill a then (a', b') :: m else (a, b) :: (a', b') :: m
    else if a = a' then
      if b = Memory.fill a then m else (a, b) :: m
    else (a', b') :: Memory.write m a b

/-- The bytes `bs` written at `a`, `a + 1`, … in increasing address order (20_memory.md R60). -/
def Memory.writeList (m : List Host.Cell) (a : Nat) : List Byte → List Host.Cell
  | [] => m
  | b :: bs => Memory.writeList (Memory.write m a b) (a + 1) bs

/-- The `n` bytes at `a`, `a + 1`, … -/
def Memory.readList (m : List Host.Cell) (a : Nat) : Nat → List Byte
  | 0 => []
  | n + 1 => Memory.read m a :: Memory.readList m (a + 1) n

/-- The canonical form from address `lo` on: addresses rising, each a cell, no entry equal to what an
unlisted address reads as. -/
def Memory.wfFrom (lo : Nat) : List Host.Cell → Bool
  | [] => true
  | (a, b) :: m =>
    decide (lo ≤ a) && decide (a < Config.memSize) && (b != Memory.fill a) && Memory.wfFrom (a + 1) m

/-- Memory is in canonical form. -/
def Memory.wf (m : List Host.Cell) : Bool := Memory.wfFrom 0 m

/-- Every byte of the font region reads as FONT: no cell below 0x050 is listed (20_memory.md R57). -/
def Memory.fontIntact (m : List Host.Cell) : Bool := m.all fun c => decide (Config.fontEnd ≤ c.1)

/-- Memory after a reset that draws every byte outside the font (10_state.md R43, † rows). -/
def Memory.drawn (ram : Nat → Byte) : List Host.Cell :=
  (List.range' Config.fontEnd (Config.memSize - Config.fontEnd)).filterMap fun a =>
    if ram a = Memory.fill a then none else some (a, ram a)

/-! ## The checks of an access (00_scope.md R11, 20_memory.md R54, R57) -/

/-- What `MemRead(a, 1)` raises. -/
def readCheck (a : Nat) : Option Fault := if Config.memSize ≤ a then some .readBounds else none

/-- What `MemWrite(a, 1, v)` raises: outside the cells, or in the font region. -/
def writeCheck (a : Nat) : Option Fault :=
  if Config.memSize ≤ a then some .writeBounds
  else if a < Config.fontEnd then some .fontWrite
  else none

/-- The fault of an access to the `n` bytes at `base`, `base + 1`, …, with its address: the lowest that
offends (R54). Addresses are natural numbers and do not wrap. -/
def firstFault (check : Nat → Option Fault) (base : Nat) : Nat → Option (Fault × Nat)
  | 0 => none
  | n + 1 =>
    match firstFault check base n with
    | some f => some f
    | none => (check (base + n)).map fun f => (f, base + n)

end Sys2Proof.Machine
end

