-- ==== Sys2Proof/Machine/Ops.lean ====
section
/-! DEFINITION. The named operations over the state: register reads and writes (00_scope.md R10), the
updates of each field, the inputs of the step, the ends of an instruction (completed, waiting, raising a
fault: 60_exceptions.md R200 to R203), the fetch (20_memory.md R52), the tick (R212). -/

namespace Sys2Proof.Machine

/-- What a meaning answers. -/
abbrev Result := Host.Outcome State Fault Refusal

/-! ## Registers and the other fields -/

/-- `V[x]`. -/
def State.getV (s : State) (x : Reg) : Byte := s.v[x]
/-- `V[x] <- b` (R10, R21). -/
def State.setV (s : State) (x : Reg) (b : Byte) : State := { s with v := s.v.set x b }
/-- All of V0..VF replaced. -/
def State.setRegs (s : State) (v : Vector Byte 16) : State := { s with v := v }
/-- `I <- w`. -/
def State.setI (s : State) (w : Word) : State := { s with i := w }
/-- `PC <- w`. -/
def State.setPc (s : State) (w : Word) : State := { s with pc := w }
/-- The call stack replaced. -/
def State.setStack (s : State) (l : List Word) : State := { s with stack := l }
/-- `DT <- b`. -/
def State.setDt (s : State) (b : Byte) : State := { s with dt := b }
/-- `ST <- b`. -/
def State.setSt (s : State) (b : Byte) : State := { s with st := b }
/-- The display replaced. -/
def State.setDisp (s : State) (d : Vector (BitVec 64) 32) : State := { s with disp := d }
/-- Memory replaced. -/
def State.setMem (s : State) (m : List Host.Cell) : State := { s with mem := m }
/-- The `loaded` latch replaced (R36). -/
def State.setLoaded (s : State) (c : Bool) : State := { s with loaded := c }
/-- What the call returns to the driver (R200). -/
def State.report (s : State) (r : Option Status) (e : List ToneRequest) : State :=
  { s with status := r, events := e }

/-- The byte at address `a`. -/
def State.readByte (s : State) (a : Nat) : Byte := Memory.read s.mem a

/-- The pixels of row `y`; none outside the grid. -/
def displayRow (d : Vector (BitVec 64) 32) (y : Nat) : BitVec 64 := d[y]?.getD 0

/-- `disp[x][y]` (10_state.md R31). -/
def State.pixel (s : State) (x y : Nat) : Bool := (displayRow s.disp y).getMsbD x

/-! ## The inputs of the step (00_scope.md R14; log 1) -/

/-- The key snapshot of the step being served: what the driver's call carries, else a free value. -/
def State.keys (s : State) : Keys :=
  match s.host with
  | .step k _ :: _ => k
  | _ => Config.keys s.draws

/-- The random byte of the step being served: what the driver's call carries, else a free value. -/
def State.rnd (s : State) : Byte :=
  match s.host with
  | .step _ r :: _ => r
  | _ => Config.rnd s.draws

/-! ## How an instruction ends -/

/-- The PC increment of the fetch, before dispatch (10_state.md R25). -/
def State.advance (s : State) : State := s.setPc (s.pc + 2)

/-- A skip: PC moves past the next word too when `c` holds (40_control.md R107). -/
def State.skipIf (s : State) (c : Bool) : State := s.setPc (s.pc + (if c then 2 else 0))

/-- The instruction is done, with no event (R200, status Ok). -/
def State.complete (s : State) : State := s.report (some .ok) []

/-- Nothing is committed; the driver is told to call again (R200, status Waiting). -/
def State.wait (s : State) : State := s.report (some .waiting) []

/-- The codes of R202. -/
def Fault.code : Fault → Nat
  | .fetchBounds => 1
  | .readBounds => 2
  | .writeBounds => 3
  | .fontWrite => 4
  | .stackUnderflow => 5
  | .stackOverflow => 6
  | .keyIndex => 7
  | .drawEdge => 8
  | .decodeRefused => 9

/-- Taking a fault: the latch holds the record, the driver is told, nothing else changes; PC stays at the
faulting instruction (60_exceptions.md R203). There is no other exception entry and no return from one:
only reset clears the latch (R205 to R207). -/
def State.raise (s : State) (word : Option Word) (f : Fault) (addr : Option Nat)
    (value : Option FaultValue) : State :=
  { s with
    fault := some ⟨f, s.pc, word, addr, value⟩
    status := some (.fault ⟨f, s.pc, word, addr, value⟩)
    events := [] }

/-- Store the bytes `bs` through I, all or nothing, then end at `done` (42_index_memory.md R140); `word`
is the storing instruction's word. -/
def State.storeThroughI (s : State) (word : Word) (bs : List Byte) (done : State → State) : State :=
  match firstFault writeCheck s.i.toNat bs.length with
  | some (f, a) => s.raise (some word) f (some a) none
  | none => done (s.advance.setMem (Memory.writeList s.mem s.i.toNat bs))

/-- Read the `n` bytes at I, or raise for the lowest address that is no cell (R140). -/
def State.loadThroughI (s : State) (word : Word) (n : Nat) (done : List Byte → State) : State :=
  match firstFault readCheck s.i.toNat n with
  | some (f, a) => s.raise (some word) f (some a) none
  | none => done (Memory.readList s.mem s.i.toNat n)

/-! ## The fetch (20_memory.md R52) -/

/-- The word at PC, or the first of PC, PC + 1 that is no cell. -/
def fetch (s : State) : Except Nat Word :=
  if Config.memSize ≤ s.pc.toNat + 1 then
    .error (if Config.memSize ≤ s.pc.toNat then s.pc.toNat else s.pc.toNat + 1)
  else .ok (wordOfBytes (s.readByte s.pc.toNat) (s.readByte (s.pc.toNat + 1)))

/-! ## The tick (60_exceptions.md R212) -/

/-- One timer, one tick: down by one, never below zero. -/
def tickTimer (t : Byte) : Byte := if t = 0 then 0 else t - 1

/-- `tick(s)`. -/
def State.tick (s : State) : State := (s.setDt (tickTimer s.dt)).setSt (tickTimer s.st)

/-- One timer after `n` ticks. -/
def tickTimerBy (n : Nat) (t : Byte) : Byte := if t = 0 then 0 else BitVec.ofNat 8 (t.toNat - n)

/-- `n` ticks. -/
def State.tickBy (s : State) (n : Nat) : State :=
  (s.setDt (tickTimerBy n s.dt)).setSt (tickTimerBy n s.st)

end Sys2Proof.Machine
end

