-- ==== Sys2Proof/Machine/Operands.lean ====
section
/-! DEFINITION. The operand forms (30_encoding.md R72): addresses from NNN and V0, the font address,
decimal digits, V0..VX as a list, sprite rows and their place on the display, the key index. -/

namespace Sys2Proof.Machine

/-- `zext_16(NNN)` (30_encoding.md R71). -/
def zext16 (nnn : Addr12) : Word := nnn.setWidth 16

/-- `zext_16(NNN) + zext_16(V[0])`, the target of BNNN (40_control.md R105). -/
def State.offsetTarget (s : State) (nnn : Addr12) : Word := zext16 nnn + (s.getV 0).setWidth 16

/-- `V[X] * 5`, the address of a glyph (42_index_memory.md R143). -/
def glyphAddress (b : Byte) : Word := BitVec.ofNat 16 (b.toNat * 5)

/-- The decimal digits of a byte, hundreds first (42_index_memory.md R144). -/
def bcdDigits (b : Byte) : List Byte :=
  [BitVec.ofNat 8 (b.toNat / 100), BitVec.ofNat 8 (b.toNat / 10 % 10), BitVec.ofNat 8 (b.toNat % 10)]

/-- V0..VX inclusive (42_index_memory.md R145). -/
def State.regsUpTo (s : State) (x : Reg) : List Byte := s.v.toList.take (x.val + 1)

/-- The registers with the bytes `bs` in V[k], V[k+1], … (42_index_memory.md R146). -/
def setRegsFrom (v : Vector Byte 16) (k : Nat) : List Byte → Vector Byte 16
  | [] => v
  | b :: bs => setRegsFrom (v.setIfInBounds k b) (k + 1) bs

/-- I after FX55 or FX65: I + X + 1 under LOADSTORE_INCREMENTS_I, else unchanged (R145, R146). -/
def State.indexAfter (s : State) (x : Reg) : Word :=
  if s.params.incrementsI then s.i + BitVec.ofNat 16 (x.val + 1) else s.i

/-! ## Sprites (43_display.md R160, R161) -/

/-- The pixels of a row that the sprite byte `b` covers at column `x0`: bit 7 is column x0, bit 7 - c is
column x0 + c, columns past 63 dropped. -/
def spriteMask (b : Byte) (x0 : Nat) : BitVec 64 := (b ++ 0#56) >>> x0

/-- The display with the rows `bs` XORed on at column `x0`, rows `y`, `y + 1`, …, those past 31 dropped
(R163 with clip). -/
def drawRows (d : Vector (BitVec 64) 32) (x0 y : Nat) : List Byte → Vector (BitVec 64) 32
  | [] => d
  | b :: bs => drawRows (d.setIfInBounds y (displayRow d y ^^^ spriteMask b x0)) x0 (y + 1) bs

/-- Some set bit of the rows falls on a set pixel of the grid (R163). -/
def collides (d : Vector (BitVec 64) 32) (x0 y : Nat) : List Byte → Bool
  | [] => false
  | b :: bs => (displayRow d y &&& spriteMask b x0 != 0) || collides d x0 (y + 1) bs

/-- Some set bit of the rows falls outside the grid (R161). -/
def outsideGrid (x0 y : Nat) : List Byte → Bool
  | [] => false
  | b :: bs =>
    (List.range 8).any (fun c => b.getMsbD c && (decide (Config.dispW ≤ x0 + c) || decide (Config.dispH ≤ y)))
      || outsideGrid x0 (y + 1) bs

/-! ## Keys (44_input.md R169, R172) -/

/-- Key k is held. -/
def keyHeld (keys : Keys) (k : Nat) : Bool := keys.getLsbD k

/-- `min(held)`, none when no key is held. -/
def lowestHeld (keys : Keys) : Option Byte :=
  ((List.range Config.numKeys).find? (keyHeld keys)).map (BitVec.ofNat 8)

end Sys2Proof.Machine
end

