-- ==== Sys2Proof/Machine/Flags.lean ====
section
/-! DEFINITION. Every flag the spec gives: the seven writers of VF (10_state.md R23), each computed from
operands read before any write, on natural numbers (00_scope.md R9). -/

namespace Sys2Proof.Machine

/-- A flag as the byte VF holds. -/
def flagByte (c : Bool) : Byte := if c then 1 else 0

/-- 8XY4: the unwrapped sum exceeds 255 (41_alu.md R127). -/
def carryOut (p q : Byte) : Bool := decide (255 < p.toNat + q.toNat)

/-- 8XY5 and 8XY7: minuend ≥ subtrahend (R128, R130). -/
def noBorrow (minuend subtrahend : Byte) : Bool := decide (subtrahend.toNat ≤ minuend.toNat)

/-- 8XY6: the bit shifted out to the right (R129). -/
def bitOutRight (p : Byte) : Bool := p.getLsbD 0

/-- 8XYE: the bit shifted out to the left (R131). -/
def bitOutLeft (p : Byte) : Bool := p.getLsbD 7

/-- FX1E: I + VX exceeds ADDR_LIMIT (42_index_memory.md R142). -/
def indexOverflow (i : Word) (b : Byte) : Bool := decide (Config.addrLimit < i.toNat + b.toNat)

/-- The result goes to VX first and the flag to VF last, so that the flag wins when X = 0xF
(10_state.md R22). -/
def State.setVF (s : State) (x : Reg) (result : Byte) (flag : Bool) : State :=
  (s.setV x result).setV vF (flagByte flag)

end Sys2Proof.Machine
end

