-- ==== Sys2Proof/Machine/Alu.lean ====
section
/-! DEFINITION. Register loads, arithmetic, logic, shifts, random (41_alu.md). None raises a fault; every
one ends with PC = a + 2 (R120). -/

namespace Sys2Proof.Machine

/-- 6XNN: `V[X] <- NN` (R121). -/
def execLdImm (x : Reg) (nn : Byte) (s : State) : Result := .next (s.advance.setV x nn).complete

/-- 7XNN: `V[X] <- (V[X] + NN) mod 256`, no flag (R122). -/
def execAddImm (x : Reg) (nn : Byte) (s : State) : Result :=
  .next (s.advance.setV x (BitVec.ofNat 8 ((s.getV x).toNat + nn.toNat))).complete

/-- 8XY0: `V[X] <- V[Y]` (R123). -/
def execLdReg (x y : Reg) (s : State) : Result := .next (s.advance.setV x (s.getV y)).complete

/-- 8XY1: `V[X] <- V[X] | V[Y]` (R124). -/
def execOr (x y : Reg) (s : State) : Result :=
  .next (s.advance.setV x (s.getV x ||| s.getV y)).complete

/-- 8XY2: `V[X] <- V[X] & V[Y]` (R125). -/
def execAnd (x y : Reg) (s : State) : Result :=
  .next (s.advance.setV x (s.getV x &&& s.getV y)).complete

/-- 8XY3: `V[X] <- V[X] ^ V[Y]` (R126). -/
def execXor (x y : Reg) (s : State) : Result :=
  .next (s.advance.setV x (s.getV x ^^^ s.getV y)).complete

/-- 8XY4: the sum modulo 256, VF the carry (R127). -/
def execAddReg (x y : Reg) (s : State) : Result :=
  .next (s.advance.setVF x (BitVec.ofNat 8 ((s.getV x).toNat + (s.getV y).toNat))
    (carryOut (s.getV x) (s.getV y))).complete

/-- 8XY5: `(p + 256 - q) mod 256`, VF the no-borrow of p - q (R128). -/
def execSub (x y : Reg) (s : State) : Result :=
  .next (s.advance.setVF x (BitVec.ofNat 8 ((s.getV x).toNat + 256 - (s.getV y).toNat))
    (noBorrow (s.getV x) (s.getV y))).complete

/-- 8XY6: `p >> 1`, VF the old bit 0; Y is ignored (R129). -/
def execShr (x _y : Reg) (s : State) : Result :=
  .next (s.advance.setVF x (s.getV x >>> 1) (bitOutRight (s.getV x))).complete

/-- 8XY7: `(q + 256 - p) mod 256`, VF the no-borrow of q - p (R130). -/
def execSubn (x y : Reg) (s : State) : Result :=
  .next (s.advance.setVF x (BitVec.ofNat 8 ((s.getV y).toNat + 256 - (s.getV x).toNat))
    (noBorrow (s.getV y) (s.getV x))).complete

/-- 8XYE: `(p << 1) mod 256`, VF the old bit 7; Y is ignored (R131). -/
def execShl (x _y : Reg) (s : State) : Result :=
  .next (s.advance.setVF x (s.getV x <<< 1) (bitOutLeft (s.getV x))).complete

/-- CXNN: `V[X] <- rnd & NN`, for the byte drawn at this step (R133). -/
def execRnd (x : Reg) (nn : Byte) (s : State) : Result :=
  .next (s.advance.setV x (s.rnd &&& nn)).complete

end Sys2Proof.Machine
end

