-- ==== Sys2Proof/Machine/Control.lean ====
section
/-! DEFINITION. Control transfer and skips (40_control.md). A meaning gets the state before the fetch's PC
increment and makes it itself (`advance`), so that a fault leaves PC at the instruction (R12, R203). -/

namespace Sys2Proof.Machine

/-- 0NNN: nothing but the fetch's PC increment (R101). -/
def execSys (_nnn : Addr12) (s : State) : Result := .next s.advance.complete

/-- A word that matches no instruction: a no-op (30_encoding.md R80, 41_alu.md R132). -/
def execUnknown (_w : Word) (s : State) : Result := .next s.advance.complete

/-- 00EE: `PC <- pop()`, or StackUnderflow (R102). -/
def execRet (s : State) : Result :=
  .next (match s.stack.getLast? with
    | none => s.raise (some (encode .ret)) .stackUnderflow none none
    | some ra => ((s.setStack s.stack.dropLast).setPc ra).complete)

/-- 1NNN: `PC <- zext_16(NNN)` (R103). -/
def execJp (nnn : Addr12) (s : State) : Result := .next (s.setPc (zext16 nnn)).complete

/-- The stack holds STACK_DEPTH entries; never, when it is unbounded (R104). -/
def State.stackFull (s : State) : Bool :=
  match s.params.stackDepth with
  | none => false
  | some d => decide (d ≤ s.stack.length)

/-- 2NNN: `push(PC)` with PC already incremented, `PC <- zext_16(NNN)`, or StackOverflow (R104). -/
def execCall (nnn : Addr12) (s : State) : Result :=
  .next (if s.stackFull then s.raise (some (encode (.call nnn))) .stackOverflow none none
    else ((s.setStack (s.stack ++ [s.advance.pc])).setPc (zext16 nnn)).complete)

/-- BNNN: `PC <- zext_16(NNN) + zext_16(V[0])` (R105). -/
def execJpV0 (nnn : Addr12) (s : State) : Result := .next (s.setPc (s.offsetTarget nnn)).complete

/-- 3XNN: skip if V[X] = NN (R108). -/
def execSeImm (x : Reg) (nn : Byte) (s : State) : Result :=
  .next (s.advance.skipIf (s.getV x == nn)).complete

/-- 4XNN: skip if V[X] ≠ NN (R109). -/
def execSneImm (x : Reg) (nn : Byte) (s : State) : Result :=
  .next (s.advance.skipIf (s.getV x != nn)).complete

/-- The low nibble of 5XYN or 9XYN is refused (30_encoding.md R76). -/
def State.nibbleRefused (s : State) (n : BitVec 4) : Bool :=
  s.params.lowNibble == .refuse && n != 0

/-- 5XY0: skip if V[X] = V[Y] (R110); DecodeRefused for N ≠ 0 under refuse. -/
def execSeReg (x y : Reg) (n : BitVec 4) (s : State) : Result :=
  .next (if s.nibbleRefused n then s.raise (some (encode (.seReg x y n))) .decodeRefused none none
    else (s.advance.skipIf (s.getV x == s.getV y)).complete)

/-- 9XY0: skip if V[X] ≠ V[Y] (R111); DecodeRefused for N ≠ 0 under refuse. -/
def execSneReg (x y : Reg) (n : BitVec 4) (s : State) : Result :=
  .next (if s.nibbleRefused n then s.raise (some (encode (.sneReg x y n))) .decodeRefused none none
    else (s.advance.skipIf (s.getV x != s.getV y)).complete)

end Sys2Proof.Machine
end

