-- ==== Sys2Proof/Machine/Display.lean ====
section
/-! DEFINITION. The display instructions (43_display.md). -/

namespace Sys2Proof.Machine

/-- 00E0: every pixel unset, VF unchanged (R162). -/
def execCls (s : State) : Result := .next (s.advance.setDisp (Vector.replicate 32 0)).complete

/-- DXYN with its rows read: the edge check, the XOR, then VF = collision (R163). -/
def State.drawSprite (s : State) (word : Word) (vx vy : Byte) (rows : List Byte) : State :=
  if s.params.drawEdge == .fault && outsideGrid vx.toNat vy.toNat rows then
    s.raise (some word) .drawEdge none (some (.point vx vy))
  else
    ((s.advance.setDisp (drawRows s.disp vx.toNat vy.toNat rows)).setV vF
      (flagByte (collides s.disp vx.toNat vy.toNat rows))).complete

/-- DXYN: N rows from I drawn at (VX, VY) by XOR; ReadBounds is checked before DrawEdge (R163, R204). -/
def execDrw (x y : Reg) (n : BitVec 4) (s : State) : Result :=
  .next (s.loadThroughI (encode (.drw x y n)) n.toNat
    (s.drawSprite (encode (.drw x y n)) (s.getV x) (s.getV y)))

end Sys2Proof.Machine
end

