-- ==== Sys2Proof/Machine/IndexMemory.lean ====
section
/-! DEFINITION. The index register and the instructions that reach memory through it
(42_index_memory.md). -/

namespace Sys2Proof.Machine

/-- ANNN: `I <- zext_16(NNN)` (R141). -/
def execLdI (nnn : Addr12) (s : State) : Result := .next (s.advance.setI (zext16 nnn)).complete

/-- FX1E: `I <- (I + V[X]) mod 2^16`, then VF = 1 iff the sum exceeds 0xFFF (R142). -/
def execAddI (x : Reg) (s : State) : Result :=
  .next ((s.advance.setI (BitVec.ofNat 16 (s.i.toNat + (s.getV x).toNat))).setV vF
    (flagByte (indexOverflow s.i (s.getV x)))).complete

/-- FX29: `I <- V[X] * 5`, VX not masked (R143). -/
def execLdFont (x : Reg) (s : State) : Result :=
  .next (s.advance.setI (glyphAddress (s.getV x))).complete

/-- FX33: the three decimal digits of VX at I, I + 1, I + 2 (R144). -/
def execBcd (x : Reg) (s : State) : Result :=
  .next (s.storeThroughI (encode (.bcd x)) (bcdDigits (s.getV x)) fun t => t.complete)

/-- FX55: V0..VX at I, I + 1, … (R145). -/
def execStore (x : Reg) (s : State) : Result :=
  .next (s.storeThroughI (encode (.store x)) (s.regsUpTo x) fun t =>
    (t.setI (s.indexAfter x)).complete)

/-- FX65: V0..VX from I, I + 1, … (R146). -/
def execLoad (x : Reg) (s : State) : Result :=
  .next (s.loadThroughI (encode (.load x)) (x.val + 1) fun bs =>
    ((s.advance.setRegs (setRegsFrom s.v 0 bs)).setI (s.indexAfter x)).complete)

end Sys2Proof.Machine
end

