-- ==== Sys2Proof/Machine/Input.lean ====
section
/-! DEFINITION. The key instructions (44_input.md). All read the one snapshot of the step (R169). -/

namespace Sys2Proof.Machine

/-- Skip on the state of key VX, or KeyIndex when VX names no key (R169); `want` is the state that skips. -/
def State.skipOnKey (s : State) (word : Word) (k : Byte) (want : Bool) : State :=
  if Config.numKeys ≤ k.toNat then s.raise (some word) .keyIndex none (some (.key k))
  else (s.advance.skipIf (keyHeld s.keys k.toNat == want)).complete

/-- EX9E: skip if key VX is held (R170). -/
def execSkp (x : Reg) (s : State) : Result := .next (s.skipOnKey (encode (.skp x)) (s.getV x) true)

/-- EXA1: skip if key VX is not held (R171). -/
def execSknp (x : Reg) (s : State) : Result := .next (s.skipOnKey (encode (.sknp x)) (s.getV x) false)

/-- FX0A: VX is the lowest key held; with none held the step commits nothing and waits (R172, R214). -/
def execWaitKey (x : Reg) (s : State) : Result :=
  .next (match lowestHeld s.keys with
    | none => s.wait
    | some k => (s.advance.setV x k).complete)

end Sys2Proof.Machine
end

