-- ==== Sys2Proof/Machine/Timers.lean ====
section
/-! DEFINITION. The timer instructions (45_timers.md). The tick itself is `State.tick` in Ops.lean. -/

namespace Sys2Proof.Machine

/-- FX07: `V[X] <- DT` (R180). -/
def execLdFromDt (x : Reg) (s : State) : Result := .next (s.advance.setV x s.dt).complete

/-- FX15: `DT <- V[X]` (R181). -/
def execLdDt (x : Reg) (s : State) : Result := .next (s.advance.setDt (s.getV x)).complete

/-- The tone request of a write of `new` to ST holding `old`: only on the way from zero to nonzero, its
duration in proportion to the new value (R182; the four parameters are OPEN, log 9). -/
def toneRequests (old new : Byte) : List ToneRequest :=
  if old = 0 ∧ new ≠ 0 then
    [{ frequency := Config.toneFreq, duration := new.toNat * Config.toneUnit,
       amplitude := Config.toneAmplitude, waveform := Config.toneWaveform }]
  else []

/-- FX18: `ST <- V[X]`, and the tone request (R182). -/
def execLdSt (x : Reg) (s : State) : Result :=
  .next ((s.advance.setSt (s.getV x)).report (some .ok) (toneRequests s.st (s.getV x)))

end Sys2Proof.Machine
end

