-- ==== Sys2Proof/Machine/Driver.lean ====
section
/-! DEFINITION. The calls of the driver (60_exceptions.md R200, R201, R212, R220; 70_reset_and_hazards.md
R230, R236): step, tick, load and reset, and how the model serves them one at a time from `State.host`
(log 1, 2). -/

namespace Sys2Proof.Machine

/-- step(keys, rnd), R201: a latched fault is returned again; without an image the step is refused with
NotLoaded; then fetch, decode, execute. The checks come in R204's order. -/
def stepCall (s : State) : Result :=
  match s.fault with
  | some f => .next (s.report (some (.fault f)) [])
  | none =>
    if s.loaded = false then .next (s.report (some .notLoaded) [])
    else
      match fetch s with
      | .error a => .next (s.raise none .fetchBounds (some a) none)
      | .ok w =>
        match decode w with
        | .instr i => exec i s
        | .unknown w => execUnknown w s

/-- tick(), R212: works in every state, emits no event and returns nothing. -/
def tickCall (s : State) : Result := .next (s.tick.report none [])

/-- load(image), R236: the image goes to 0x200 and on, or LoadError and no change. A load out of its turn
has no semantics (D33; log 8). -/
def loadCall (image : Option (List Byte)) (s : State) : Result :=
  if s.loadOpen = false then .refused .loadOutOfTurn
  else
    .next (match image with
      | none => s.report (some .loadError) []
      | some bytes =>
        if Config.maxImage < bytes.length then s.report (some .loadError) []
        else
          ((s.setMem (Memory.writeList s.mem Config.progBase bytes)).setLoaded true).report (some .loadOk) [])

/-- The reset state of this implementation, with the model's own bookkeeping kept (R230; log 14). -/
def State.resetKeeping (s : State) : State :=
  { State.reset with params := s.params, host := s.host, draws := s.draws }

/-- A reset under RESET_POLICY = arbitrary: the † rows of R43 are drawn. -/
def State.resetDrawn (s : State) (d : ResetDraw) : State :=
  { s.resetKeeping with
    mem := Memory.drawn d.ram, v := d.v, i := d.i, dt := d.dt, st := d.st, disp := d.disp }

/-- reset(), R230. -/
def resetCall (s : State) : Result :=
  .next (match s.params.resetPolicy with
    | .zero => s.resetKeeping
    | .arbitrary => s.resetDrawn (Config.resetDraw s.draws))

/-- Whether a load is still in its turn after the call at the head of the queue (R220: after reset, before
the first step, at most once). -/
def loadOpenAfter : List HostCall → Bool → Bool
  | .tick :: _, o => o
  | .reset :: _, _ => true
  | _, _ => false

/-- The call at the head of the queue has been served. -/
def State.served (s : State) : State :=
  { s with
    host := s.host.tail, draws := s.draws + 1, loadOpen := loadOpenAfter s.host s.loadOpen }

/-- Apply `f` to a next state. -/
def onNext (f : State → State) : Result → Result
  | .next s => .next (f s)
  | .fault r => .fault r
  | .refused r => .refused r

/-- Serve the next call. With no call queued the driver is free: any number of ticks, then a step with any
keys and random byte (R213, R215; log 2). -/
def serveCall (s : State) : Result :=
  match s.host with
  | [] => stepCall (s.tickBy (Config.ticks s.draws))
  | .step _ _ :: _ => stepCall s
  | .tick :: _ => tickCall s
  | .load image :: _ => loadCall image s
  | .reset :: _ => resetCall s

/-- Serve the next call and take it off the queue. -/
def drive (s : State) : Result := onNext State.served (serveCall s)

/-- Bytes written where they are cells; an address that is no cell is passed over. -/
def State.placeByte (s : State) (a : Nat) (b : Byte) : State :=
  if a < Config.memSize then s.setMem (Memory.write s.mem a b) else s

/-- The call is a step. -/
def HostCall.isStep : HostCall → Bool
  | .step _ _ => true
  | _ => false

/-- `s` with the word at PC and everything a step needs to fetch it: an image counts as loaded, no fault is
latched, and the driver's next call is a step (log 10). -/
def State.placeWord (s : State) (w : Word) : State :=
  { (s.placeByte s.pc.toNat (highByte w)).placeByte (s.pc.toNat + 1) (lowByte w) with
    loaded := true, fault := none, host := s.host.dropWhile fun c => !c.isStep }

end Sys2Proof.Machine
end

