-- ==== Sys2Proof/Machine/Step.lean ====
section
/-! DEFINITION. One step of the model: one call of the driver, served (60_exceptions.md R200, R220). -/

namespace Sys2Proof.Machine

/-- One call of the driver: next, fault or refusal. -/
def step (s : State) : Host.Outcome State Fault Refusal := drive s

/-- `s` with the instruction whose bits are `w` stored where `step` fetches its next instruction, so that
`step` runs exactly it (log 10). -/
def State.withFetchWord (s : State) (nbits w : Nat) : State := s.placeWord (tableWord nbits w)

end Sys2Proof.Machine
end

