-- ==== Sys2Proof/Safety.lean ====
section
/-! DEFINITION. The terms claims use: what an instruction leaves unchanged, how it ends (completed, waiting,
faulted: 60_exceptions.md R200 to R203), the machine's invariant, the ends of a run
(70_reset_and_hazards.md R243). -/

namespace Sys2Proof.Machine

/-! ## Frames -/

/-- A part of the state an instruction may change. PC is not listed: every statement says where PC goes. -/
inductive Part where
  /-- General register x. -/
  | reg (x : Reg)
  /-- Every general register whose index is at most x's. -/
  | regsUpTo (x : Reg)
  | index
  | stack
  | delayTimer
  | soundTimer
  | display
  /-- The n bytes of memory at base. -/
  | bytes (base n : Nat)
  deriving DecidableEq, Repr

/-- The part covers general register z. -/
def Part.coversReg (z : Reg) : Part → Bool
  | .reg x => decide (z = x)
  | .regsUpTo x => decide (z ≤ x)
  | _ => false

/-- The part covers address a. -/
def Part.coversByte (a : Nat) : Part → Bool
  | .bytes base n => decide (base ≤ a ∧ a < base + n)
  | _ => false

/-- Everything but PC, the latch and the call's results is the same in `t` as in `s`, except the parts
listed: every register, every byte of memory and every pixel that no listed part covers. -/
structure KeepsBut (parts : List Part) (s t : State) : Prop where
  regs : ∀ z, (parts.any (Part.coversReg z)) = false → t.getV z = s.getV z
  index : .index ∉ parts → t.i = s.i
  stack : .stack ∉ parts → t.stack = s.stack
  delayTimer : .delayTimer ∉ parts → t.dt = s.dt
  soundTimer : .soundTimer ∉ parts → t.st = s.st
  display : .display ∉ parts → ∀ x y, t.pixel x y = s.pixel x y
  memory : ∀ a, (parts.any (Part.coversByte a)) = false → t.readByte a = s.readByte a
  loaded : t.loaded = s.loaded
  params : t.params = s.params
  host : t.host = s.host
  draws : t.draws = s.draws
  loadOpen : t.loadOpen = s.loadOpen

/-- From `s` the instruction completes in `t`: status Ok, the events `events`, no fault latched anew, and
only the parts listed (and PC) changed. -/
structure Completes (parts : List Part) (events : List ToneRequest) (s t : State) : Prop where
  status : t.status = some .ok
  events : t.events = events
  fault : t.fault = s.fault
  keeps : KeepsBut parts s t

/-- From `s` the call ends in `t` with the fault record `r`: latched, returned, and nothing else changed,
PC included (R203). -/
structure Faults (r : FaultRecord) (s t : State) : Prop where
  latched : t.fault = some r
  status : t.status = some (.fault r)
  events : t.events = []
  pc : t.pc = s.pc
  keeps : KeepsBut [] s t

/-- From `s` the call changes nothing but what it returns, `r` and no event. -/
structure OnlyReports (r : Option Status) (s t : State) : Prop where
  status : t.status = r
  events : t.events = []
  fault : t.fault = s.fault
  pc : t.pc = s.pc
  keeps : KeepsBut [] s t

/-- The result is a next state that meets `P`. -/
def NextWith (r : Result) (P : State → Prop) : Prop := ∃ t, r = .next t ∧ P t

/-- The instructions `is` executed one after another, as long as each answers a next state. -/
def execAll : List Instr → State → Result
  | [], s => .next s
  | i :: is, s =>
    match exec i s with
    | .next t => execAll is t
    | .fault r => .fault r
    | .refused r => .refused r

/-- A word that 30_encoding.md R80 lists as a no-op. -/
def NoOpWord (w : Word) : Prop :=
  (fieldC w = 0x0#4 ∧ w ≠ 0x00E0#16 ∧ w ≠ 0x00EE#16) ∨
  (fieldC w = 0x8#4 ∧ fieldN w ∈ [0x8#4, 0x9#4, 0xA#4, 0xB#4, 0xC#4, 0xD#4, 0xF#4]) ∨
  (fieldC w = 0xE#4 ∧ fieldNN w ∉ [0x9E#8, 0xA1#8]) ∨
  (fieldC w = 0xF#4 ∧
    fieldNN w ∉ [0x07#8, 0x0A#8, 0x15#8, 0x18#8, 0x1E#8, 0x29#8, 0x33#8, 0x55#8, 0x65#8])

/-! ## Sprites -/

/-- The sprite of n rows at I, drawn at (x0, y0), has a set bit at (x, y): row y - y0 is the byte at
I + (y - y0), column x - x0 its bit 7 - (x - x0) (43_display.md R160). -/
def State.spriteBit (s : State) (n x0 y0 x y : Nat) : Prop :=
  x0 ≤ x ∧ x < x0 + 8 ∧ y0 ≤ y ∧ y < y0 + n ∧
    (s.readByte (s.i.toNat + (y - y0))).getLsbD (7 - (x - x0)) = true

/-- Some set bit of that sprite lies outside the 64×32 grid (R161). -/
def State.spriteLeavesGrid (s : State) (n x0 y0 : Nat) : Prop :=
  ∃ x y, s.spriteBit n x0 y0 x y ∧ (64 ≤ x ∨ 32 ≤ y)

/-! ## The invariant of the machine -/

/-- The record carries what R202's table gives its fault, stands at the machine's PC, and is one the
parameters allow. -/
structure FaultRecord.WellFormed (p : Params) (pc : Word) (r : FaultRecord) : Prop where
  pc : r.pc = pc
  word : r.word = none ↔ r.name = .fetchBounds
  bounds : r.name ∈ [Fault.fetchBounds, .readBounds, .writeBounds] → ∃ a, r.addr = some a ∧ Config.memSize ≤ a
  font : r.name = .fontWrite → ∃ a, r.addr = some a ∧ a < Config.fontEnd
  noAddr : r.name ∉ [Fault.fetchBounds, .readBounds, .writeBounds, .fontWrite] → r.addr = none
  key : r.name = .keyIndex → ∃ k, r.value = some (.key k) ∧ 16 ≤ k.toNat
  edge : r.name = .drawEdge → ∃ vx vy, r.value = some (.point vx vy)
  noValue : r.name ∉ [Fault.keyIndex, .drawEdge] → r.value = none
  overflow : r.name = .stackOverflow → p.stackDepth.isSome = true
  drawEdge : r.name = .drawEdge → p.drawEdge = .fault
  refused : r.name = .decodeRefused → p.lowNibble = .refuse

/-- What every call keeps: memory canonical with the font intact (20_memory.md R57), PC and return addresses
in the range R27 gives, the stack within its bound (R29), no execution before a load (R36), the latch's
record as R202 says, a load in turn only before both. -/
structure State.Inv (s : State) : Prop where
  memory : Memory.wf s.mem = true
  font : Memory.fontIntact s.mem = true
  pc : s.pc.toNat ≤ 0x10FE
  stack : ∀ ra ∈ s.stack, ra.toNat ≤ 0xFFF
  depth : ∀ d, s.params.stackDepth = some d → s.stack.length ≤ d
  fresh : s.loaded = false → s.pc = 0x200 ∧ s.stack = [] ∧ s.fault = none
  record : ∀ r, s.fault = some r → r.WellFormed s.params s.pc
  returned : ∀ r, s.status = some (.fault r) → s.fault = some r
  turn : s.loadOpen = true → s.loaded = false

/-! ## The ends of a run (R243) -/

/-- A good end: unfaulted, loaded, and the word at PC is a jump to itself. -/
def State.goodEnd (s : State) : Prop :=
  s.fault = none ∧ s.loaded = true ∧
    ∃ w nnn, fetch s = .ok w ∧ decode w = .instr (.jp nnn) ∧ zext16 nnn = s.pc

/-- A bad end: the fault latch is set. -/
def State.badEnd (s : State) : Prop := s.fault ≠ none

end Sys2Proof.Machine
end

