-- ==== Sys2Proof/Certificates/Slice0/Obligations.lean ====
section
/-! DEFINITION. The statements for the provers, each with the rule of spec/ it formalises. A statement about
an instruction says where `exec` answers a next state, what that state holds, and its frame: `Completes
parts events s t` and `Faults r s t` say that every register, byte of memory, pixel, stack entry and timer
outside `parts` is as before (Safety.lean). -/

open Sys2Proof Sys2Proof.Machine

/-! ## Steps and decoding -/

/-- 60_exceptions.md R200, R201: with a step call at the head of the driver's queue, `step` is `stepCall`,
and with no call queued it is `stepCall` after the free number of ticks, whatever the latches, the fetch and
the word at PC; the call is then taken off the queue. On an unfaulted, loaded machine whose word at PC
decodes to an instruction, that is `exec` of the instruction.
Rests on decision D9 and on the model's queue and free ticks (logs 1, 2). -/
def Obligations.StepRunsDecodedInstruction : Prop :=
  ∀ s : State,
    (∀ k r rest, s.host = .step k r :: rest → step s = onNext State.served (stepCall s)) ∧
    (s.host = [] → step s = onNext State.served (stepCall (s.tickBy (Config.ticks s.draws)))) ∧
    (∀ (w : Word) (i : Instr), s.fault = none → s.loaded = true → fetch s = .ok w →
      decode w = .instr i →
      (∀ k r rest, s.host = .step k r :: rest → step s = onNext State.served (exec i s)) ∧
      (s.host = [] → step s = onNext State.served (exec i (s.tickBy (Config.ticks s.draws)))))

/-- R220: the driver's other calls are served as such, in their turn. Taking a call off the queue changes
nothing but the queue, the count of calls and the turn of a load: the turn is open after a reset, as before
after a tick, and closed after a step or a load (R220, decision D33).
The queue, the count and the bit are the model's (logs 1, 8). -/
def Obligations.StepServesTickLoadReset : Prop :=
  ∀ s : State,
    (∀ rest, s.host = .tick :: rest → step s = onNext State.served (tickCall s)) ∧
    (∀ image rest, s.host = .load image :: rest → step s = onNext State.served (loadCall image s)) ∧
    (∀ rest, s.host = .reset :: rest → step s = onNext State.served (resetCall s)) ∧
    s.served = { s with
      host := s.host.tail, draws := s.draws + 1, loadOpen := s.served.loadOpen } ∧
    (∀ t, step s = .next t → t.host = s.host.tail ∧ t.draws = s.draws + 1 ∧
      (∀ rest, s.host = .reset :: rest → t.loadOpen = true) ∧
      (∀ rest, s.host = .tick :: rest → t.loadOpen = s.loadOpen) ∧
      (∀ k r rest, s.host = .step k r :: rest → t.loadOpen = false) ∧
      (∀ image rest, s.host = .load image :: rest → t.loadOpen = false) ∧
      (s.host = [] → t.loadOpen = false))

/-- 95_test_vectors.md: a few words of every family, read as the spec's encodings say.
Rests on decision D16. -/
def Obligations.WordsOfTheSpecDecode : Prop :=
  decode 0x0123#16 = .instr (.sys 0x123) ∧ decode 0x00E0#16 = .instr .cls ∧
  decode 0x00EE#16 = .instr .ret ∧ decode 0xB300#16 = .instr (.jpV0 0x300) ∧
  decode 0x3342#16 = .instr (.seImm 3 0x42) ∧ decode 0x6A5C#16 = .instr (.ldImm 0xA 0x5C) ∧
  decode 0x8126#16 = .instr (.shr 1 2) ∧ decode 0x81F4#16 = .instr (.addReg 1 0xF) ∧
  decode 0x8128#16 = .unknown 0x8128 ∧ decode 0xF555#16 = .instr (.store 5) ∧
  decode 0xD015#16 = .instr (.drw 0 1 5) ∧ decode 0xE19E#16 = .instr (.skp 1) ∧
  decode 0xF118#16 = .instr (.ldSt 1)

/-- 30_encoding.md R74, R75: a word decodes to an instruction exactly when that instruction is well formed
and the word is its encoding. No bit is dropped, no two instructions share a word.
Rests on decisions D16, D17 and on the model's keeping the low nibble of 5XYN and 9XYN (log 13). -/
def Obligations.DecodeAndEncodeAgree : Prop :=
  ∀ (w : Word) (i : Instr), decode w = .instr i ↔ i.WellFormed ∧ encode i = w

/-- R80 and R132: a word the spec lists as a no-op changes nothing but PC, which advances by 2, and raises
no fault. -/
def Obligations.NoOpWordsOnlyAdvancePc : Prop :=
  ∀ (s : State) (w : Word), s.fault = none → s.loaded = true → fetch s = .ok w → NoOpWord w →
    NextWith (stepCall s) fun t => t.pc = s.pc + 2 ∧ Completes [] [] s t

/-- R80: the words that are no instruction are exactly the listed ones of classes 8, E and F.
Rests on decision D16 and log 16. -/
def Obligations.UnknownWordsAreTheListedOnes : Prop :=
  ∀ w u : Word, decode w = .unknown u ↔ u = w ∧ NoOpWord w ∧ fieldC w ≠ 0x0#4

/-- 20_memory.md R52, R53: the fetch reads the word big-endian, at any alignment, exactly when PC and
PC + 1 are cells.
Rests on decision D11. -/
def Obligations.FetchReadsBigEndianWord : Prop :=
  ∀ (s : State) (w : Word), fetch s = .ok w ↔
    s.pc.toNat + 1 < 4095 ∧
      w.toNat = 256 * (s.readByte s.pc.toNat).toNat + (s.readByte (s.pc.toNat + 1)).toNat

/-- R52: a fetch that reaches past the cells raises FetchBounds at the first of PC, PC + 1 that is no cell,
and changes nothing else.
Rests on decisions D9, D11 and conflict C1 (logs 3, 11). -/
def Obligations.FetchPastMemoryFaults : Prop :=
  ∀ s : State, s.fault = none → s.loaded = true → 4095 ≤ s.pc.toNat + 1 →
    NextWith (stepCall s)
      (Faults ⟨.fetchBounds, s.pc, none, some (max s.pc.toNat 4095), none⟩ s)

/-! ## Control transfer and skips -/

/-- 40_control.md R101.
Rests on decision D16. -/
def Obligations.SysOnlyAdvancesPc : Prop :=
  ∀ (nnn : Addr12) (s : State),
    NextWith (exec (.sys nnn) s) fun t => t.pc = s.pc + 2 ∧ Completes [] [] s t

/-- R103: PC becomes NNN, nothing else changes, nothing faults; the next fetch faults for a target at or
above 0xFFE. -/
def Obligations.JumpGoesToTarget : Prop :=
  ∀ (nnn : Addr12) (s : State),
    NextWith (exec (.jp nnn) s) fun t =>
      t.pc.toNat = nnn.toNat ∧ Completes [] [] s t ∧ (0xFFE ≤ nnn.toNat → ∃ a, fetch t = .error a)

/-- R105: PC becomes NNN + V0, which never wraps; the next fetch faults for a sum at or above 0xFFE. -/
def Obligations.JumpAddsV0 : Prop :=
  ∀ (nnn : Addr12) (s : State),
    NextWith (exec (.jpV0 nnn) s) fun t =>
      t.pc.toNat = nnn.toNat + (s.getV 0).toNat ∧ t.pc.toNat ≤ 0x10FE ∧ Completes [] [] s t ∧
        (0xFFE ≤ nnn.toNat + (s.getV 0).toNat → ∃ a, fetch t = .error a)

/-- R104: 2NNN pushes the address after the call and jumps, whenever the stack is unbounded or has room.
Rests on decision D7 (logs 5, 17). -/
def Obligations.CallPushesReturnAddress : Prop :=
  ∀ (nnn : Addr12) (s : State), (∀ d, s.params.stackDepth = some d → s.stack.length < d) →
    NextWith (exec (.call nnn) s) fun t =>
      t.stack = s.stack ++ [s.pc + 2] ∧ t.pc.toNat = nnn.toNat ∧ Completes [.stack] [] s t

/-- R102: 00EE pops the top of the stack into PC.
Rests on decision D8. -/
def Obligations.ReturnPopsIntoPc : Prop :=
  ∀ (s : State) (below : List Word) (top : Word), s.stack = below ++ [top] →
    NextWith (exec .ret s) fun t => t.pc = top ∧ t.stack = below ∧ Completes [.stack] [] s t

/-- R102, R104: 00EE on an empty stack raises StackUnderflow; with a bounded STACK_DEPTH, 2NNN at full
depth raises StackOverflow.
Rests on decisions D7 to D10 (logs 3, 5). -/
def Obligations.StackBoundsFault : Prop :=
  (∀ s : State, s.stack = [] →
    NextWith (exec .ret s) (Faults ⟨.stackUnderflow, s.pc, some 0x00EE#16, none, none⟩ s)) ∧
  (∀ (nnn : Addr12) (s : State) (d : Nat), s.params.stackDepth = some d → s.stack.length = d →
    NextWith (exec (.call nnn) s)
      (Faults ⟨.stackOverflow, s.pc, some (encode (.call nnn)), none, none⟩ s))

/-- R106: calls nest and returns pop in last-in first-out order. After any calls and as many returns, PC is
the address after the first call and everything else, the stack included, is as before. -/
def Obligations.NestedCallsReturnInOrder : Prop :=
  ∀ (targets : List Addr12) (s : State), targets ≠ [] →
    (∀ d, s.params.stackDepth = some d → s.stack.length + targets.length ≤ d) →
    NextWith (execAll (targets.map Instr.call ++ List.replicate targets.length Instr.ret) s) fun t =>
      t.pc = s.pc + 2 ∧ Completes [] [] s t

/-- R108, R109: 3XNN skips when VX = NN and 4XNN when VX ≠ NN, for every X, VF included. -/
def Obligations.SkipsOnImmediate : Prop :=
  ∀ (x : Reg) (nn : Byte) (s : State),
    (NextWith (exec (.seImm x nn) s) fun t =>
      t.pc = (if s.getV x = nn then s.pc + 4 else s.pc + 2) ∧ Completes [] [] s t) ∧
    (NextWith (exec (.sneImm x nn) s) fun t =>
      t.pc = (if s.getV x = nn then s.pc + 2 else s.pc + 4) ∧ Completes [] [] s t)

/-- R110, R111 and R76: 5XYN skips when VX = VY and 9XYN when they differ, for every N where the low nibble
is ignored (the default), and for N = 0 where it is refused.
Rests on decision D17 (logs 5, 13). -/
def Obligations.SkipsOnRegisters : Prop :=
  ∀ (x y : Reg) (n : BitVec 4) (s : State), (s.params.lowNibble = .ignore ∨ n = 0) →
    (NextWith (exec (.seReg x y n) s) fun t =>
      t.pc = (if s.getV x = s.getV y then s.pc + 4 else s.pc + 2) ∧ Completes [] [] s t) ∧
    (NextWith (exec (.sneReg x y n) s) fun t =>
      t.pc = (if s.getV x = s.getV y then s.pc + 2 else s.pc + 4) ∧ Completes [] [] s t)

/-- R76: under LOW_NIBBLE_5_9 = refuse, 5XYN and 9XYN with N ≠ 0 raise DecodeRefused.
Rests on decision D17 (logs 5, 13). -/
def Obligations.RefusedLowNibbleFaults : Prop :=
  ∀ (x y : Reg) (n : BitVec 4) (s : State), s.params.lowNibble = .refuse → n ≠ 0 →
    NextWith (exec (.seReg x y n) s)
      (Faults ⟨.decodeRefused, s.pc, some (encode (.seReg x y n)), none, none⟩ s) ∧
    NextWith (exec (.sneReg x y n) s)
      (Faults ⟨.decodeRefused, s.pc, some (encode (.sneReg x y n)), none, none⟩ s)

/-! ## Register loads, arithmetic, logic, shifts, random -/

/-- 41_alu.md R121, R123: 6XNN stores NN exactly, 8XY0 copies VY; VF only as the destination. -/
def Obligations.LoadsSetTheRegister : Prop :=
  ∀ (x y : Reg) (nn : Byte) (s : State),
    (NextWith (exec (.ldImm x nn) s) fun t =>
      t.getV x = nn ∧ t.pc = s.pc + 2 ∧ Completes [.reg x] [] s t) ∧
    (NextWith (exec (.ldReg x y) s) fun t =>
      t.getV x = s.getV y ∧ t.pc = s.pc + 2 ∧ Completes [.reg x] [] s t)

/-- R122: 7XNN adds modulo 256 and leaves VF alone unless X = 0xF.
Rests on decision D14. -/
def Obligations.AddImmediateWraps : Prop :=
  ∀ (x : Reg) (nn : Byte) (s : State),
    NextWith (exec (.addImm x nn) s) fun t =>
      (t.getV x).toNat = ((s.getV x).toNat + nn.toNat) % 256 ∧ t.pc = s.pc + 2 ∧
        Completes [.reg x] [] s t

/-- R124, R125, R126: 8XY1, 8XY2, 8XY3 are bitwise and leave VF alone unless X = 0xF (decision D14). -/
def Obligations.LogicIsBitwise : Prop :=
  ∀ (x y : Reg) (s : State),
    (NextWith (exec (.orReg x y) s) fun t =>
      (∀ k < 8, (t.getV x).getLsbD k = ((s.getV x).getLsbD k || (s.getV y).getLsbD k)) ∧
        t.pc = s.pc + 2 ∧ Completes [.reg x] [] s t) ∧
    (NextWith (exec (.andReg x y) s) fun t =>
      (∀ k < 8, (t.getV x).getLsbD k = ((s.getV x).getLsbD k && (s.getV y).getLsbD k)) ∧
        t.pc = s.pc + 2 ∧ Completes [.reg x] [] s t) ∧
    (NextWith (exec (.xorReg x y) s) fun t =>
      (∀ k < 8, (t.getV x).getLsbD k = ((s.getV x).getLsbD k != (s.getV y).getLsbD k)) ∧
        t.pc = s.pc + 2 ∧ Completes [.reg x] [] s t)

/-- R127, R22: 8XY4 leaves the sum modulo 256 in VX and the carry in VF, written last. -/
def Obligations.AddSetsCarry : Prop :=
  ∀ (x y : Reg) (s : State),
    NextWith (exec (.addReg x y) s) fun t =>
      (x ≠ 0xF → (t.getV x).toNat = ((s.getV x).toNat + (s.getV y).toNat) % 256) ∧
        t.getV 0xF = (if 255 < (s.getV x).toNat + (s.getV y).toNat then 1 else 0) ∧
        t.pc = s.pc + 2 ∧ Completes [.reg x, .reg 0xF] [] s t

/-- R128, R130, R22: 8XY5 and 8XY7 subtract modulo 256; VF, written last, is 1 exactly when the minuend is
at least the subtrahend. -/
def Obligations.SubtractionsSetNoBorrow : Prop :=
  ∀ (x y : Reg) (s : State),
    (NextWith (exec (.sub x y) s) fun t =>
      (x ≠ 0xF → (t.getV x).toNat = ((s.getV x).toNat + 256 - (s.getV y).toNat) % 256) ∧
        t.getV 0xF = (if (s.getV y).toNat ≤ (s.getV x).toNat then 1 else 0) ∧
        t.pc = s.pc + 2 ∧ Completes [.reg x, .reg 0xF] [] s t) ∧
    (NextWith (exec (.subn x y) s) fun t =>
      (x ≠ 0xF → (t.getV x).toNat = ((s.getV y).toNat + 256 - (s.getV x).toNat) % 256) ∧
        t.getV 0xF = (if (s.getV x).toNat ≤ (s.getV y).toNat then 1 else 0) ∧
        t.pc = s.pc + 2 ∧ Completes [.reg x, .reg 0xF] [] s t)

/-- R129, R131, R22: 8XY6 and 8XYE shift VX by one, whatever Y is; VF, written last, is the old bit shifted
out. -/
def Obligations.ShiftsSetBitOut : Prop :=
  ∀ (x y : Reg) (s : State),
    (NextWith (exec (.shr x y) s) fun t =>
      (x ≠ 0xF → (t.getV x).toNat = (s.getV x).toNat / 2) ∧
        (t.getV 0xF).toNat = (s.getV x).toNat % 2 ∧
        t.pc = s.pc + 2 ∧ Completes [.reg x, .reg 0xF] [] s t) ∧
    (NextWith (exec (.shl x y) s) fun t =>
      (x ≠ 0xF → (t.getV x).toNat = (s.getV x).toNat * 2 % 256) ∧
        (t.getV 0xF).toNat = (s.getV x).toNat / 128 ∧
        t.pc = s.pc + 2 ∧ Completes [.reg x, .reg 0xF] [] s t)

/-- R133: CXNN leaves the drawn byte masked by NN, and every value under the mask is the result of some
draw. The random byte is an input (log 1); nothing else is assumed of it.
Rests on decision D24. -/
def Obligations.RandomIsMaskedByte : Prop :=
  ∀ (x : Reg) (nn : Byte) (s : State),
    (NextWith (exec (.rnd x nn) s) fun t =>
      t.getV x = s.rnd &&& nn ∧ t.pc = s.pc + 2 ∧ Completes [.reg x] [] s t) ∧
    (∀ (v : Byte) (k : Keys) (rest : List HostCall), v &&& ~~~nn = 0 →
      NextWith (exec (.rnd x nn) { s with host := .step k v :: rest }) fun t => t.getV x = v)

/-! ## Index register and memory -/

/-- 42_index_memory.md R141: I becomes NNN; for NNN = 0xFFF every later access through it faults.
What a faulting access latches and keeps rests on decisions D9, D10 (R54, R140, R202, R203), and that a fault
is a next state with the latch set on log 3. -/
def Obligations.LoadIndexSetsI : Prop :=
  ∀ (nnn : Addr12) (s : State),
    NextWith (exec (.ldI nnn) s) fun t =>
      t.i.toNat = nnn.toNat ∧ t.pc = s.pc + 2 ∧ Completes [.index] [] s t ∧
        (nnn.toNat = 0xFFF → ∀ (x y : Reg) (n : BitVec 4) (j : Instr),
          j = .load x ∨ j = .bcd x ∨ j = .store x ∨ (j = .drw x y n ∧ n ≠ 0) →
          NextWith (exec j t) fun u => ∃ f, (f = .readBounds ∨ f = .writeBounds) ∧
            Faults ⟨f, t.pc, some (encode j), some 0xFFF, none⟩ t u)

/-- R142: FX1E adds VX to I modulo 2^16; VF, written last, says that the sum exceeds 0xFFF.
Rests on decisions D12, D13. -/
def Obligations.AddIndexSetsOverflow : Prop :=
  ∀ (x : Reg) (s : State),
    NextWith (exec (.addI x) s) fun t =>
      t.i.toNat = (s.i.toNat + (s.getV x).toNat) % 65536 ∧
        t.getV 0xF = (if 0xFFF < s.i.toNat + (s.getV x).toNat then 1 else 0) ∧
        t.pc = s.pc + 2 ∧ Completes [.index, .reg 0xF] [] s t

/-- R143: FX29 points I at VX × 5; for a digit the five bytes there lie in the font, for any other value
they lie outside it.
Rests on decision D28. -/
def Obligations.FontAddressIsFiveTimesVx : Prop :=
  ∀ (x : Reg) (s : State),
    NextWith (exec (.ldFont x) s) fun t =>
      t.i.toNat = (s.getV x).toNat * 5 ∧
        ((s.getV x).toNat ≤ 0xF → t.i.toNat + 5 ≤ 0x50) ∧
        (0x10 ≤ (s.getV x).toNat → 0x50 ≤ t.i.toNat ∧ t.i.toNat ≤ 0x4FB) ∧
        t.pc = s.pc + 2 ∧ Completes [.index] [] s t

/-- R144: FX33 stores the three decimal digits of VX at I, I + 1, I + 2 (memory canonical, the three bytes
cells outside the font).
Rests on decisions D6, D15. -/
def Obligations.BcdStoresDecimalDigits : Prop :=
  ∀ (x : Reg) (s : State), Memory.wf s.mem = true → 0x50 ≤ s.i.toNat → s.i.toNat + 2 < 4095 →
    NextWith (exec (.bcd x) s) fun t =>
      100 * (t.readByte s.i.toNat).toNat + 10 * (t.readByte (s.i.toNat + 1)).toNat +
          (t.readByte (s.i.toNat + 2)).toNat = (s.getV x).toNat ∧
        (t.readByte (s.i.toNat + 1)).toNat ≤ 9 ∧ (t.readByte (s.i.toNat + 2)).toNat ≤ 9 ∧
        t.pc = s.pc + 2 ∧ Completes [.bytes s.i.toNat 3] [] s t

/-- R145: FX55 stores V0..VX at I, I + 1, …, and moves I only under LOADSTORE_INCREMENTS_I.
Rests on decisions D6, D15 (log 5). -/
def Obligations.StoreWritesRegisters : Prop :=
  ∀ (x : Reg) (s : State), Memory.wf s.mem = true → 0x50 ≤ s.i.toNat → s.i.toNat + x.val < 4095 →
    NextWith (exec (.store x) s) fun t =>
      (∀ k : Reg, k ≤ x → t.readByte (s.i.toNat + k.val) = s.getV k) ∧
        t.i.toNat = s.i.toNat + (if s.params.incrementsI = true then x.val + 1 else 0) ∧
        t.pc = s.pc + 2 ∧ Completes [.bytes s.i.toNat (x.val + 1), .index] [] s t

/-- R144, R145, R57: a store that starts in the font raises FontWrite at I; one that starts above it and
reaches past the cells raises WriteBounds at max(I, 4095); either way nothing is written.
Rests on decisions D6, D9, D10 (log 3). -/
def Obligations.StoresOutsideFault : Prop :=
  ∀ (i : Instr) (x : Reg) (n : Nat) (s : State),
    (i = .bcd x ∧ n = 3) ∨ (i = .store x ∧ n = x.val + 1) →
    (s.i.toNat < 0x50 →
      NextWith (exec i s) (Faults ⟨.fontWrite, s.pc, some (encode i), some s.i.toNat, none⟩ s)) ∧
    (0x50 ≤ s.i.toNat → 4095 < s.i.toNat + n →
      NextWith (exec i s)
        (Faults ⟨.writeBounds, s.pc, some (encode i), some (max s.i.toNat 4095), none⟩ s))

/-- R63: a stored byte is what a later fetch reads; no fence is needed.
The spec marks R63 as derived. -/
def Obligations.StoredBytesAreFetched : Prop :=
  ∀ (x k l : Reg) (s t : State), Memory.wf s.mem = true → 0x50 ≤ s.i.toNat →
    s.i.toNat + x.val < 4095 → k < x → l.val = k.val + 1 → exec (.store x) s = .next t →
    t.pc.toNat = s.i.toNat + k.val → fetch t = .ok (wordOfBytes (s.getV k) (s.getV l))

/-- R146: FX65 loads V0..VX from I, I + 1, …, the font included, and moves I only under
LOADSTORE_INCREMENTS_I.
Rests on decision D15 (log 5). -/
def Obligations.LoadReadsRegisters : Prop :=
  ∀ (x : Reg) (s : State), s.i.toNat + x.val < 4095 →
    NextWith (exec (.load x) s) fun t =>
      (∀ k : Reg, k ≤ x → t.getV k = s.readByte (s.i.toNat + k.val)) ∧
        t.i.toNat = s.i.toNat + (if s.params.incrementsI = true then x.val + 1 else 0) ∧
        t.pc = s.pc + 2 ∧ Completes [.regsUpTo x, .index] [] s t

/-- R146, R54: FX65 past the cells raises ReadBounds at max(I, 4095), and no register is written.
Rests on decisions D9, D10 (log 3). -/
def Obligations.LoadOutsideFaults : Prop :=
  ∀ (x : Reg) (s : State), 4095 ≤ s.i.toNat + x.val →
    NextWith (exec (.load x) s)
      (Faults ⟨.readBounds, s.pc, some (encode (.load x)), some (max s.i.toNat 4095), none⟩ s)

/-! ## Display -/

/-- 43_display.md R162: 00E0 unsets every pixel, leaves VF alone, and is idempotent. -/
def Obligations.ClearUnsetsEveryPixel : Prop :=
  ∀ s : State,
    NextWith (exec .cls s) fun t =>
      (∀ x y, t.pixel x y = false) ∧ t.pc = s.pc + 2 ∧ Completes [.display] [] s t ∧
        NextWith (exec .cls t) fun u => ∀ x y, u.pixel x y = t.pixel x y

/-- R163, R160: DXYN toggles exactly the pixels of the grid on which the sprite has a set bit; VF is 1 when
one of them was set. Under DRAW_EDGE = fault this is the draw of a sprite that stays inside the grid.
Rests on decisions D18, D19 (log 5). -/
def Obligations.DrawTogglesSpritePixels : Prop :=
  ∀ (vx vy : Reg) (n : BitVec 4) (s : State), n = 0 ∨ s.i.toNat + n.toNat ≤ 4095 →
    (s.params.drawEdge = .clip ∨
      ¬ s.spriteLeavesGrid n.toNat (s.getV vx).toNat (s.getV vy).toNat) →
    NextWith (exec (.drw vx vy n) s) fun t =>
      (∀ x < 64, ∀ y < 32,
        (s.spriteBit n.toNat (s.getV vx).toNat (s.getV vy).toNat x y →
          t.pixel x y = !s.pixel x y) ∧
        (¬ s.spriteBit n.toNat (s.getV vx).toNat (s.getV vy).toNat x y →
          t.pixel x y = s.pixel x y)) ∧
        (t.getV 0xF = 1 ∨ t.getV 0xF = 0) ∧
        (t.getV 0xF = 1 ↔ ∃ x < 64, ∃ y < 32,
          s.spriteBit n.toNat (s.getV vx).toNat (s.getV vy).toNat x y ∧ s.pixel x y = true) ∧
        t.pc = s.pc + 2 ∧ Completes [.display, .reg 0xF] [] s t

/-- R163, R204: a sprite row past the cells raises ReadBounds at max(I, 4095), whatever the edge policy.
Rests on decisions D9, D10 (log 3). -/
def Obligations.DrawOutsideMemoryFaults : Prop :=
  ∀ (vx vy : Reg) (n : BitVec 4) (s : State), n ≠ 0 → 4095 < s.i.toNat + n.toNat →
    NextWith (exec (.drw vx vy n) s)
      (Faults ⟨.readBounds, s.pc, some (encode (.drw vx vy n)), some (max s.i.toNat 4095), none⟩ s)

/-- R161, R163: under DRAW_EDGE = fault, a set bit outside the grid raises DrawEdge with (VX, VY).
Rests on decisions D10, D18 (logs 3, 5). -/
def Obligations.DrawOffTheGridFaults : Prop :=
  ∀ (vx vy : Reg) (n : BitVec 4) (s : State), n = 0 ∨ s.i.toNat + n.toNat ≤ 4095 →
    s.params.drawEdge = .fault →
    s.spriteLeavesGrid n.toNat (s.getV vx).toNat (s.getV vy).toNat →
    NextWith (exec (.drw vx vy n) s)
      (Faults ⟨.drawEdge, s.pc, some (encode (.drw vx vy n)), none,
        some (.point (s.getV vx) (s.getV vy))⟩ s)

/-- R164: with clip, the same draw twice restores the display exactly. X and Y are not 0xF, so that both
draws have the same coordinates. The second VF is 1 exactly when a set bit of the sprite lies on a pixel that
was unset before the first draw: this follows from R163's pseudocode, and R164's own derived sentence about
the second VF holds only where the sprite meets no set pixel (log 18). -/
def Obligations.DrawTwiceRestoresDisplay : Prop :=
  ∀ (vx vy : Reg) (n : BitVec 4) (s t u : State), n = 0 ∨ s.i.toNat + n.toNat ≤ 4095 →
    s.params.drawEdge = .clip → vx ≠ 0xF → vy ≠ 0xF →
    exec (.drw vx vy n) s = .next t → exec (.drw vx vy n) t = .next u →
    (∀ x y, u.pixel x y = s.pixel x y) ∧
      (u.getV 0xF = 1 ↔ ∃ x < 64, ∃ y < 32,
        s.spriteBit n.toNat (s.getV vx).toNat (s.getV vy).toNat x y ∧ s.pixel x y = false)

/-! ## Keys -/

/-- 44_input.md R169, R170, R171: EX9E skips when key VX is held and EXA1 when it is not, for VX < 16; the
keys are those of the step's one snapshot, the one its call carries (60_exceptions.md R200).
Rests on decision D20 and log 1. -/
def Obligations.KeySkipsFollowTheKey : Prop :=
  ∀ (x : Reg) (s : State), (s.getV x).toNat < 16 →
    (NextWith (exec (.skp x) s) fun t =>
      t.pc = (if s.keys.getLsbD (s.getV x).toNat = true then s.pc + 4 else s.pc + 2) ∧
        Completes [] [] s t) ∧
    (NextWith (exec (.sknp x) s) fun t =>
      t.pc = (if s.keys.getLsbD (s.getV x).toNat = true then s.pc + 2 else s.pc + 4) ∧
        Completes [] [] s t) ∧
    (∀ (k : Keys) (r : Byte) (rest : List HostCall),
      (NextWith (exec (.skp x) { s with host := .step k r :: rest }) fun t =>
        t.pc = (if k.getLsbD (s.getV x).toNat = true then s.pc + 4 else s.pc + 2)) ∧
      (NextWith (exec (.sknp x) { s with host := .step k r :: rest }) fun t =>
        t.pc = (if k.getLsbD (s.getV x).toNat = true then s.pc + 2 else s.pc + 4)))

/-- R169: EX9E and EXA1 with VX ≥ 16 raise KeyIndex(VX).
Rests on decisions D10, D20 (log 3). -/
def Obligations.KeyIndexAboveFifteenFaults : Prop :=
  ∀ (x : Reg) (s : State), 16 ≤ (s.getV x).toNat →
    NextWith (exec (.skp x) s)
      (Faults ⟨.keyIndex, s.pc, some (encode (.skp x)), none, some (.key (s.getV x))⟩ s) ∧
    NextWith (exec (.sknp x) s)
      (Faults ⟨.keyIndex, s.pc, some (encode (.sknp x)), none, some (.key (s.getV x))⟩ s)

/-- R172, R169: FX0A takes the lowest key held; with none held it waits, and nothing changes, PC included;
the keys are those of the snapshot the step's call carries (60_exceptions.md R200).
Rests on decision D21, conflict C4 and log 1. -/
def Obligations.WaitKeyTakesLowestHeld : Prop :=
  ∀ (x : Reg) (s : State),
    (∀ k < 16, s.keys.getLsbD k = true → (∀ j < k, s.keys.getLsbD j = false) →
      NextWith (exec (.waitKey x) s) fun t =>
        (t.getV x).toNat = k ∧ t.pc = s.pc + 2 ∧ Completes [.reg x] [] s t) ∧
    ((∀ k < 16, s.keys.getLsbD k = false) →
      NextWith (exec (.waitKey x) s) (OnlyReports (some .waiting) s)) ∧
    (∀ keys r rest, s.host = .step keys r :: rest → s.keys = keys)

/-! ## Timers -/

/-- 45_timers.md R180, R181: FX07 reads DT and FX15 sets it; neither emits an event. -/
def Obligations.DelayTimerReadsAndWrites : Prop :=
  ∀ (x : Reg) (s : State),
    (NextWith (exec (.ldFromDt x) s) fun t =>
      t.getV x = s.dt ∧ t.pc = s.pc + 2 ∧ Completes [.reg x] [] s t) ∧
    (NextWith (exec (.ldDt x) s) fun t =>
      t.dt = s.getV x ∧ t.pc = s.pc + 2 ∧ Completes [.delayTimer] [] s t)

/-- R182: FX18 sets ST; it asks for one tone, of duration VX × TONE_UNIT, exactly when ST goes from zero to
nonzero.
Rests on decision D22 (log 9). -/
def Obligations.SoundTimerAsksForTone : Prop :=
  ∀ (x : Reg) (s : State),
    NextWith (exec (.ldSt x) s) fun t =>
      t.st = s.getV x ∧ t.pc = s.pc + 2 ∧
        Completes [.soundTimer]
          (if s.st.toNat = 0 ∧ 0 < (s.getV x).toNat then
            [⟨Config.toneFreq, (s.getV x).toNat * Config.toneUnit, Config.toneAmplitude,
              Config.toneWaveform⟩]
          else []) s t

/-- 60_exceptions.md R212: a tick takes one from each timer that is not zero, never raises one, emits
nothing and touches nothing else, in every state; after any number of ticks a timer at zero is at zero. -/
def Obligations.TickCountsDown : Prop :=
  ∀ s : State,
    NextWith (tickCall s) fun t =>
      t.dt.toNat = s.dt.toNat - 1 ∧ t.st.toNat = s.st.toNat - 1 ∧ t.pc = s.pc ∧
        t.fault = s.fault ∧ t.events = [] ∧ KeepsBut [.delayTimer, .soundTimer] s t ∧
        ∀ n, (State.tick^[n] s).dt.toNat = s.dt.toNat - n ∧ (State.tick^[n] s).st.toNat = s.st.toNat - n

/-- R212, R213: the n ticks that come between two steps are n ticks, one after another.
Rests on decision D23 (log 2). -/
def Obligations.TicksBetweenStepsAreTicks : Prop :=
  ∀ (n : Nat) (s : State), s.tickBy n = State.tick^[n] s

/-! ## Faults, the latches, the driver's calls -/

/-- R200, R203: an instruction completes, or waits and changes nothing, or faults precisely, recording its
own address and word.
Rests on decisions D9, D21 (logs 3, 4). -/
def Obligations.InstructionsEndInOneOfThreeWays : Prop :=
  ∀ (i : Instr) (s t : State), exec i s = .next t →
    (t.status = some .ok ∧ t.fault = s.fault) ∨ OnlyReports (some .waiting) s t ∨
      ∃ r, Faults r s t ∧ r.pc = s.pc ∧ r.word = some (encode i)

/-- R205, R204: while a fault is latched, a step returns it and changes nothing, loaded or not.
Rests on decisions D9, D31 (log 4). -/
def Obligations.LatchedFaultHalts : Prop :=
  ∀ (s : State) (f : FaultRecord), s.fault = some f →
    NextWith (stepCall s) (OnlyReports (some (.fault f)) s)

/-- 10_state.md R36: with no image loaded, a step reports NotLoaded and changes nothing.
Rests on decision D25 (log 4). -/
def Obligations.NotLoadedRefusesToStep : Prop :=
  ∀ s : State, s.fault = none → s.loaded = false →
    NextWith (stepCall s) (OnlyReports (some .notLoaded) s)

/-- 70_reset_and_hazards.md R236, R237, D33: in its turn, an image of at most 0xDFF bytes goes verbatim to
0x200 and on, and the machine is loaded; a longer image or an unopenable source is a load error that
changes nothing; out of its turn a load is refused by name.
Rests on decisions D25, D33 (log 8). -/
def Obligations.LoadPlacesImage : Prop :=
  ∀ (s : State) (image : List Byte), Memory.wf s.mem = true →
    (s.loadOpen = true → image.length ≤ 0xDFF →
      NextWith (loadCall (some image) s) fun t =>
        (∀ k < image.length, t.readByte (0x200 + k) = image.getD k 0) ∧
          (∀ a, a < 0x200 ∨ 0x200 + image.length ≤ a → t.readByte a = s.readByte a) ∧
          t.loaded = true ∧ t.status = some .loadOk ∧ t.pc = s.pc ∧ t.v = s.v ∧ t.i = s.i ∧
          t.stack = s.stack ∧ t.dt = s.dt ∧ t.st = s.st ∧ t.disp = s.disp ∧ t.fault = s.fault) ∧
    (s.loadOpen = true → 0xDFF < image.length →
      NextWith (loadCall (some image) s) (OnlyReports (some .loadError) s)) ∧
    (s.loadOpen = true → NextWith (loadCall none s) (OnlyReports (some .loadError) s)) ∧
    (s.loadOpen = false → ∀ source, loadCall source s = .refused .loadOutOfTurn)

/-- R230, 10_state.md R43: a reset from any state puts PC at 0x200, empties the stack, writes the font and
clears both latches; under RESET_POLICY = zero (the default, decisions D2 to D4) everything else is zero or
clear. The parameters stay.
Rests on decisions D2 to D5, D9, D25 (logs 6, 7, 14). -/
def Obligations.ResetPutsEveryPieceOfState : Prop :=
  ∀ s : State,
    NextWith (resetCall s) fun t =>
      t.pc = 0x200 ∧ t.stack = [] ∧ t.loaded = false ∧ t.fault = none ∧ t.params = s.params ∧
        (∀ a < 0x50, t.readByte a = fontTable.getD a 0) ∧
        (s.params.resetPolicy = .zero →
          (∀ x, t.getV x = 0) ∧ t.i = 0 ∧ t.dt = 0 ∧ t.st = 0 ∧ (∀ x y, t.pixel x y = false) ∧
            ∀ a, 0x50 ≤ a → t.readByte a = 0)

/-- R243: at a good end the machine goes on executing the jump to itself and nothing changes.
Rests on decision D34. -/
def Obligations.GoodEndKeepsRunning : Prop :=
  ∀ s : State, s.goodEnd →
    NextWith (stepCall s) fun t => t.pc = s.pc ∧ Completes [] [] s t ∧ t.goodEnd

/-! ## The whole machine -/

/-- 10_state.md R31: the display is changed by the draw and the clear instruction only. -/
def Obligations.DisplayChangesOnlyByDrawAndClear : Prop :=
  ∀ (i : Instr) (s t : State), exec i s = .next t →
    (∃ x y, t.pixel x y ≠ s.pixel x y) → i = .cls ∨ ∃ x y n, i = .drw x y n

/-- R29: only 2NNN and 00EE touch the call stack. -/
def Obligations.StackChangesOnlyByCallAndReturn : Prop :=
  ∀ (i : Instr) (s t : State), exec i s = .next t → t.stack ≠ s.stack →
    (∃ nnn, i = .call nnn) ∨ i = .ret

/-- 20_memory.md R50, R56: only FX33 and FX55 write memory. -/
def Obligations.MemoryChangesOnlyByStores : Prop :=
  ∀ (i : Instr) (s t : State), exec i s = .next t →
    (∃ a, t.readByte a ≠ s.readByte a) → ∃ x, i = .bcd x ∨ i = .store x

/-- 10_state.md R23: VF changes only by its flag writers, or as the named destination of another
instruction.
Rests on decision D14. -/
def Obligations.VfChangesOnlyByItsWriters : Prop :=
  ∀ (i : Instr) (s t : State), exec i s = .next t → t.getV 0xF ≠ s.getV 0xF →
    (∃ x y, i = .addReg x y ∨ i = .sub x y ∨ i = .shr x y ∨ i = .subn x y ∨ i = .shl x y) ∨
    (∃ x y n, i = .drw x y n) ∨ (∃ x, i = .addI x) ∨
    (∃ nn, i = .ldImm 0xF nn ∨ i = .addImm 0xF nn ∨ i = .rnd 0xF nn) ∨
    (∃ y, i = .ldReg 0xF y ∨ i = .orReg 0xF y ∨ i = .andReg 0xF y ∨ i = .xorReg 0xF y) ∨
    i = .ldFromDt 0xF ∨ i = .waitKey 0xF ∨ i = .load 0xF

/-- R28, R32: I changes only by ANNN, FX1E, FX29 (and FX55, FX65 under LOADSTORE_INCREMENTS_I), DT only by
FX15, ST only by FX18, and only FX18 emits an event.
Rests on decisions D13, D15, D22. -/
def Obligations.IndexAndTimersChangeOnlyByTheirWriters : Prop :=
  ∀ (i : Instr) (s t : State), exec i s = .next t →
    (t.i ≠ s.i → (∃ nnn, i = .ldI nnn) ∨ (∃ x, i = .addI x ∨ i = .ldFont x) ∨
      (s.params.incrementsI = true ∧ ∃ x, i = .store x ∨ i = .load x)) ∧
    (t.dt ≠ s.dt → ∃ x, i = .ldDt x) ∧
    (t.st ≠ s.st → ∃ x, i = .ldSt x) ∧
    (t.events ≠ [] → ∃ x, i = .ldSt x)

/-- The machine's invariant (Safety.lean `State.Inv`: R27, R29, R33, R36, R40, R57, R202) holds at reset, and
a load is in its turn there (R220).
Rests on decisions D2 to D9, D33 and on logs 7, 8. -/
def Obligations.ResetMeetsTheInvariant : Prop := State.reset.Inv ∧ State.reset.loadOpen = true

/-- Every call of the driver keeps the invariant: whatever the call, from whatever state that meets it.
Rests on decisions D6 to D9, D25, D33. -/
def Obligations.EveryCallKeepsTheInvariant : Prop :=
  ∀ s t : State, s.Inv → step s = .next t → t.Inv

/-- R33, R57, R51: no call changes the font: it reads as FONT before and after.
Rests on decisions D5, D6 (log 6). -/
def Obligations.FontIsNeverOverwritten : Prop :=
  ∀ s t : State, s.Inv → step s = .next t →
    ∀ a < 0x50, t.readByte a = s.readByte a ∧ t.readByte a = fontTable.getD a 0
end

