-- ==== Sys2Proof/Laws/Decode.lean ====
section
/-! SUPPORT. The fields of the words the encoder makes (30_encoding.md R70, R71): each field reads back as
the operand it was made from; a word is made of its fields. -/

namespace Sys2Proof

/-! ## Fields of made words -/

/-- The upper part of a concatenation. -/
theorem extract_append_high {m n : Nat} (a : BitVec m) (b : BitVec n) :
    (a ++ b).extractLsb' n m = a := by
  refine BitVec.eq_of_getLsbD_eq fun i hi => ?_
  rw [BitVec.getLsbD_extractLsb', BitVec.getLsbD_append, if_neg (by omega)]
  simp [hi]

/-- A field inside the lower part of a concatenation. -/
theorem extract_append_low {m n : Nat} (a : BitVec m) (b : BitVec n) {lo k : Nat} (h : lo + k ≤ n) :
    (a ++ b).extractLsb' lo k = b.extractLsb' lo k := by
  ext i hi
  simp only [BitVec.getElem_extractLsb', BitVec.getLsbD_append]
  rw [if_pos (by omega)]

@[simp] theorem fieldC_encodeNNN (c : BitVec 4) (n : Addr12) : fieldC (encodeNNN c n) = c :=
  extract_append_high c n
@[simp] theorem fieldNNN_encodeNNN (c : BitVec 4) (n : Addr12) : fieldNNN (encodeNNN c n) = n :=
  (extract_append_low c n (by omega)).trans (by simp)

@[simp] theorem fieldC_encodeXNN (c : BitVec 4) (x : Reg) (n : Byte) : fieldC (encodeXNN c x n) = c :=
  extract_append_high c _
@[simp] theorem fieldX_encodeXNN (c : BitVec 4) (x : Reg) (n : Byte) : fieldX (encodeXNN c x n) = x :=
  congrArg BitVec.toFin
    ((extract_append_low c _ (by omega)).trans (extract_append_high (BitVec.ofFin (w := 4) x) n))
@[simp] theorem fieldNN_encodeXNN (c : BitVec 4) (x : Reg) (n : Byte) : fieldNN (encodeXNN c x n) = n :=
  (extract_append_low c _ (by omega)).trans ((extract_append_low _ n (by omega)).trans (by simp))

@[simp] theorem fieldC_encodeXYN (c : BitVec 4) (x y : Reg) (n : BitVec 4) :
    fieldC (encodeXYN c x y n) = c := extract_append_high c _
@[simp] theorem fieldX_encodeXYN (c : BitVec 4) (x y : Reg) (n : BitVec 4) :
    fieldX (encodeXYN c x y n) = x :=
  congrArg BitVec.toFin
    ((extract_append_low c _ (by omega)).trans (extract_append_high (BitVec.ofFin (w := 4) x) _))
@[simp] theorem fieldY_encodeXYN (c : BitVec 4) (x y : Reg) (n : BitVec 4) :
    fieldY (encodeXYN c x y n) = y :=
  congrArg BitVec.toFin
    ((extract_append_low c _ (by omega)).trans
      ((extract_append_low _ _ (by omega)).trans (extract_append_high (BitVec.ofFin (w := 4) y) n)))
@[simp] theorem fieldN_encodeXYN (c : BitVec 4) (x y : Reg) (n : BitVec 4) :
    fieldN (encodeXYN c x y n) = n :=
  (extract_append_low c _ (by omega)).trans
    ((extract_append_low _ _ (by omega)).trans ((extract_append_low _ n (by omega)).trans (by simp)))

/-! ## Words made of their fields -/

/-- Two neighbouring fields side by side are one field. -/
theorem extract_join {k : Nat} (w : BitVec k) (lo m n : Nat) :
    w.extractLsb' (lo + n) m ++ w.extractLsb' lo n = w.extractLsb' lo (m + n) := by
  refine BitVec.eq_of_getLsbD_eq fun i hi => ?_
  rw [BitVec.getLsbD_append, BitVec.getLsbD_extractLsb', BitVec.getLsbD_extractLsb',
    BitVec.getLsbD_extractLsb']
  by_cases h : i < n
  · simp [h, hi]
  · rw [if_neg h, show lo + n + (i - n) = lo + i by omega]
    simp [hi, show i - n < m by omega]

/-- The field of all bits is the word. -/
theorem extract_all (w : Word) : w.extractLsb' 0 16 = w := by simp

/-- A word is its class and its NNN. -/
theorem encodeNNN_fields (w : Word) : encodeNNN (fieldC w) (fieldNNN w) = w :=
  (extract_join w 0 4 12).trans (extract_all w)

/-- A word is its class, X and NN. -/
theorem encodeXNN_fields (w : Word) : encodeXNN (fieldC w) (fieldX w) (fieldNN w) = w :=
  (congrArg (w.extractLsb' 12 4 ++ ·) (extract_join w 0 4 8)).trans (encodeNNN_fields w)

/-- A word is its class, X, Y and N. -/
theorem encodeXYN_fields (w : Word) : encodeXYN (fieldC w) (fieldX w) (fieldY w) (fieldN w) = w :=
  (congrArg (fun b => w.extractLsb' 12 4 ++ (w.extractLsb' 8 4 ++ b)) (extract_join w 0 4 4)).trans
    (encodeXNN_fields w)

/-! ## Bytes -/

/-- A word is its two bytes, the high one at the lower address (20_memory.md R53). -/
theorem wordOfBytes_bytes (w : Word) : wordOfBytes (highByte w) (lowByte w) = w :=
  (extract_join w 0 8 8).trans (extract_all w)

/-- Two bytes decode as their word. -/
theorem decodeBytes_word (w : Word) (rest : List Byte) :
    decodeBytes (highByte w :: lowByte w :: rest) = .ok (decode w, rest) := by
  simp only [decodeBytes, wordOfBytes_bytes]

end Sys2Proof
end

