-- ==== Sys2Proof/Laws/Memory.lean ====
section
/-! SUPPORT. Memory: read after write, the canonical form kept by every operation, lists of cells, and what
a checked access answers (20_memory.md R54, R57, R60). -/

namespace Sys2Proof.Machine

/-! ## The canonical form -/

/-- A canonical list from `hi` on is one from any lower address on. -/
theorem Memory.wfFrom_mono {lo hi : Nat} {m : List Host.Cell} (h : lo ≤ hi)
    (hm : Memory.wfFrom hi m = true) : Memory.wfFrom lo m = true := by
  cases m with
  | nil => rfl
  | cons c m =>
    simp only [Memory.wfFrom, Bool.and_eq_true, decide_eq_true_eq] at hm ⊢
    exact ⟨⟨⟨by omega, hm.1.1.2⟩, hm.1.2⟩, hm.2⟩

/-- Below its first address, canonical memory reads as unlisted. -/
theorem Memory.read_below {lo a : Nat} {m : List Host.Cell} (hm : Memory.wfFrom lo m = true)
    (h : a < lo) : Memory.read m a = Memory.fill a := by
  induction m generalizing lo with
  | nil => rfl
  | cons c m ih =>
    simp only [Memory.wfFrom, Bool.and_eq_true, decide_eq_true_eq] at hm
    rw [Memory.read, if_neg (by omega)]
    exact ih hm.2 (by omega)

/-- Outside the cells, canonical memory reads as unlisted. -/
theorem Memory.read_outside {lo a : Nat} {m : List Host.Cell} (hm : Memory.wfFrom lo m = true)
    (h : Config.memSize ≤ a) : Memory.read m a = Memory.fill a := by
  induction m generalizing lo with
  | nil => rfl
  | cons c m ih =>
    simp only [Memory.wfFrom, Bool.and_eq_true, decide_eq_true_eq] at hm
    rw [Memory.read, if_neg (by omega)]
    exact ih hm.2

theorem Memory.wfFrom_write {lo a : Nat} {b : Byte} {m : List Host.Cell}
    (hm : Memory.wfFrom lo m = true) (hl : lo ≤ a) (ha : a < Config.memSize) :
    Memory.wfFrom lo (Memory.write m a b) = true := by
  induction m generalizing lo with
  | nil =>
    simp only [Memory.write]
    split <;> simp_all [Memory.wfFrom]
  | cons c m ih =>
    have hc := hm
    simp only [Memory.wfFrom, Bool.and_eq_true, decide_eq_true_eq] at hc
    simp only [Memory.write]
    split
    · split
      · exact hm
      · have hab : a + 1 ≤ c.1 := by omega
        simp_all [Memory.wfFrom]
    · split
      · next _ he =>
        split
        · exact Memory.wfFrom_mono (by omega) hc.2
        · simp_all [Memory.wfFrom]
      · have := ih hc.2 (by omega)
        simp_all [Memory.wfFrom]

/-- A write of a cell keeps the canonical form. -/
theorem Memory.wf_write {a : Nat} {b : Byte} {m : List Host.Cell} (hm : Memory.wf m = true)
    (ha : a < Config.memSize) : Memory.wf (Memory.write m a b) = true :=
  Memory.wfFrom_write hm (Nat.zero_le a) ha

/-- Writing a list of cells keeps the canonical form. -/
theorem Memory.wf_writeList {a : Nat} {bs : List Byte} {m : List Host.Cell}
    (hm : Memory.wf m = true) (ha : a + bs.length ≤ Config.memSize) :
    Memory.wf (Memory.writeList m a bs) = true := by
  induction bs generalizing a m with
  | nil => exact hm
  | cons b bs ih =>
    simp only [List.length_cons] at ha
    exact ih (Memory.wf_write hm (by omega)) (by omega)

/-- The memory of a reset that draws its bytes is canonical. -/
theorem Memory.wf_drawn (ram : Nat → Byte) : Memory.wf (Memory.drawn ram) = true := by
  have key : ∀ n base, base + n ≤ Config.memSize →
      Memory.wfFrom base ((List.range' base n).filterMap fun a =>
        if ram a = Memory.fill a then none else some (a, ram a)) = true := by
    intro n
    induction n with
    | zero => intro base _; rfl
    | succ n ih =>
      intro base h
      rw [List.range'_succ, List.filterMap_cons]
      by_cases hr : ram base = Memory.fill base
      · simp only [if_pos hr]
        exact Memory.wfFrom_mono (Nat.le_succ base) (ih (base + 1) (by omega))
      · simp only [if_neg hr, Memory.wfFrom, ih (base + 1) (by omega), Bool.and_true, Bool.and_eq_true,
          decide_eq_true_eq, bne_iff_ne, ne_eq]
        exact ⟨⟨Nat.le_refl base, by omega⟩, hr⟩
  exact Memory.wfFrom_mono (Nat.zero_le _) (key _ _ (by decide))

/-! ## Read after write -/

theorem Memory.read_write_same' {lo a : Nat} {b : Byte} {m : List Host.Cell}
    (hm : Memory.wfFrom lo m = true) : Memory.read (Memory.write m a b) a = b := by
  induction m generalizing lo with
  | nil => simp only [Memory.write]; split <;> simp_all [Memory.read]
  | cons c m ih =>
    have hc := hm
    simp only [Memory.wfFrom, Bool.and_eq_true, decide_eq_true_eq] at hc
    simp only [Memory.write]
    split
    · next hlt =>
      split
      · next hb =>
        rw [Memory.read, if_neg (by omega), Memory.read_below hc.2 (by omega), hb]
      · simp [Memory.read]
    · split
      · next he =>
        split
        · next hb => rw [Memory.read_below hc.2 (by omega), hb]
        · simp [Memory.read]
      · next hne =>
        rw [Memory.read, if_neg (fun e => hne e.symm)]
        exact ih hc.2

/-- A read of the address just written gives the byte written. -/
theorem Memory.read_write_same {a : Nat} {b : Byte} {m : List Host.Cell} (hm : Memory.wf m = true) :
    Memory.read (Memory.write m a b) a = b := Memory.read_write_same' hm

theorem Memory.read_write_ne' {lo a c : Nat} {b : Byte} {m : List Host.Cell}
    (hm : Memory.wfFrom lo m = true) (h : c ≠ a) :
    Memory.read (Memory.write m a b) c = Memory.read m c := by
  induction m generalizing lo with
  | nil => simp only [Memory.write]; split <;> simp [Memory.read, h.symm]
  | cons d m ih =>
    have hd := hm
    simp only [Memory.wfFrom, Bool.and_eq_true, decide_eq_true_eq] at hd
    simp only [Memory.write]
    split
    · split
      · rfl
      · rw [Memory.read, if_neg h.symm]
    · split
      · next he =>
        have hda : d.1 ≠ c := fun e => h (by omega)
        split
        · rw [Memory.read, if_neg hda]
        · rw [Memory.read, if_neg h.symm, Memory.read, if_neg hda]
      · simp only [Memory.read, ih hd.2]

/-- A write leaves every other address as it was. -/
theorem Memory.read_write_ne {a c : Nat} {b : Byte} {m : List Host.Cell} (hm : Memory.wf m = true)
    (h : c ≠ a) : Memory.read (Memory.write m a b) c = Memory.read m c := Memory.read_write_ne' hm h

/-- What memory reads as after a list of bytes is written inside the cells. -/
theorem Memory.read_writeList {a c : Nat} {bs : List Byte} {m : List Host.Cell}
    (hm : Memory.wf m = true) (ha : a + bs.length ≤ Config.memSize) :
    Memory.read (Memory.writeList m a bs) c =
      if a ≤ c ∧ c < a + bs.length then bs.getD (c - a) 0 else Memory.read m c := by
  induction bs generalizing a m with
  | nil => simp only [Memory.writeList, List.length_nil]; rw [if_neg (by omega)]
  | cons b bs ih =>
    simp only [List.length_cons] at ha
    rw [Memory.writeList, ih (Memory.wf_write hm (by omega)) (by omega), List.length_cons]
    by_cases hca : c = a
    · subst hca
      rw [if_neg (by omega), Memory.read_write_same hm, if_pos (by omega)]
      simp
    · rw [Memory.read_write_ne hm hca]
      by_cases hr : a + 1 ≤ c ∧ c < a + 1 + bs.length
      · rw [if_pos hr, if_pos (by omega), show c - a = (c - (a + 1)) + 1 by omega, List.getD_cons_succ]
      · rw [if_neg hr, if_neg (by omega)]

@[simp] theorem Memory.length_readList (m : List Host.Cell) (a n : Nat) :
    (Memory.readList m a n).length = n := by
  induction n generalizing a with
  | zero => rfl
  | succ n ih => simp [Memory.readList, ih]

/-- The k-th byte read from `a`. -/
theorem Memory.getElem?_readList (m : List Host.Cell) {a n k : Nat} (h : k < n) :
    (Memory.readList m a n)[k]? = some (Memory.read m (a + k)) := by
  induction n generalizing a k with
  | zero => omega
  | succ n ih =>
    cases k with
    | zero => rfl
    | succ k =>
      rw [Memory.readList, List.getElem?_cons_succ, ih (by omega)]
      congr 2
      omega

/-! ## The font -/

/-- With the font intact, the font region reads as FONT. -/
theorem Memory.read_font {a : Nat} {m : List Host.Cell} (hm : Memory.fontIntact m = true)
    (h : a < Config.fontEnd) : Memory.read m a = Memory.fill a := by
  induction m with
  | nil => rfl
  | cons c m ih =>
    simp only [Memory.fontIntact, List.all_cons, Bool.and_eq_true, decide_eq_true_eq] at hm
    rw [Memory.read, if_neg (by omega)]
    exact ih hm.2

/-- A write outside the font keeps the font intact. -/
theorem Memory.fontIntact_write {a : Nat} {b : Byte} {m : List Host.Cell}
    (hm : Memory.fontIntact m = true) (ha : Config.fontEnd ≤ a) :
    Memory.fontIntact (Memory.write m a b) = true := by
  induction m with
  | nil => simp only [Memory.write]; split <;> simp [Memory.fontIntact, ha]
  | cons c m ih =>
    have hc := hm
    simp only [Memory.fontIntact, List.all_cons, Bool.and_eq_true, decide_eq_true_eq] at hc
    have h' := ih hc.2
    simp only [Memory.fontIntact] at h'
    simp only [Memory.write]
    split
    · split
      · exact hm
      · simp [Memory.fontIntact, ha, hc.1]
        simpa using hc.2
    · split
      · split
        · exact hc.2
        · simp [Memory.fontIntact, ha]
          simpa using hc.2
      · simp only [Memory.fontIntact, List.all_cons, h', Bool.and_true, decide_eq_true_eq]
        exact hc.1

/-- Writing a list of bytes outside the font keeps the font intact. -/
theorem Memory.fontIntact_writeList {a : Nat} {bs : List Byte} {m : List Host.Cell}
    (hm : Memory.fontIntact m = true) (ha : Config.fontEnd ≤ a) :
    Memory.fontIntact (Memory.writeList m a bs) = true := by
  induction bs generalizing a m with
  | nil => exact hm
  | cons b bs ih => exact ih (Memory.fontIntact_write hm ha) (by omega)

/-- The memory of a reset that draws its bytes has the font intact. -/
theorem Memory.fontIntact_drawn (ram : Nat → Byte) : Memory.fontIntact (Memory.drawn ram) = true := by
  simp only [Memory.fontIntact, Memory.drawn, List.all_eq_true, List.mem_filterMap, decide_eq_true_eq]
  rintro c ⟨a, ha, hc⟩
  rw [List.mem_range'_1] at ha
  split at hc
  · cases hc
  · cases hc; exact ha.1

/-! ## Checked accesses -/

/-- No byte of the access offends. -/
theorem firstFault_eq_none {check : Nat → Option Fault} {base n : Nat} :
    firstFault check base n = none ↔ ∀ k < n, check (base + k) = none := by
  induction n with
  | zero => simp [firstFault]
  | succ n ih =>
    rw [Nat.forall_lt_succ_right, ← ih, firstFault]
    cases firstFault check base n <;> simp

/-- The fault of an access is that of its lowest offending byte. -/
theorem firstFault_eq_some {check : Nat → Option Fault} {base n : Nat} {f : Fault} {a : Nat} :
    firstFault check base n = some (f, a) ↔
      ∃ k < n, a = base + k ∧ check a = some f ∧ ∀ j < k, check (base + j) = none := by
  induction n with
  | zero => simp [firstFault]
  | succ n ih =>
    rw [firstFault]
    cases hf : firstFault check base n with
    | some g =>
      simp only
      rw [hf] at ih
      constructor
      · intro h
        obtain ⟨k, hk, hr⟩ := ih.1 h
        exact ⟨k, by omega, hr⟩
      · rintro ⟨k, hk, ha, hc, hj⟩
        refine ih.2 ⟨k, ?_, ha, hc, hj⟩
        by_contra hkn
        have hkn' : k = n := by omega
        subst hkn'
        rw [firstFault_eq_none.2 hj] at hf
        cases hf
    | none =>
      simp only
      have hnone := firstFault_eq_none.1 hf
      constructor
      · intro h
        obtain ⟨g, hg, he⟩ := Option.map_eq_some_iff.1 h
        cases he
        exact ⟨n, by omega, rfl, hg, hnone⟩
      · rintro ⟨k, hk, ha, hc, -⟩
        have hkn : k = n := by
          by_contra hne
          have := hnone k (by omega)
          rw [← ha, hc] at this
          cases this
        subst hkn
        rw [← ha, hc]
        rfl

/-- A read of `n` bytes is allowed exactly when all of them are cells. -/
theorem readAllowed_iff {base n : Nat} :
    firstFault readCheck base n = none ↔ n = 0 ∨ base + n ≤ Config.memSize := by
  rw [firstFault_eq_none]
  constructor
  · intro h
    by_contra hc
    have := h (n - 1) (by omega)
    simp only [readCheck] at this
    split at this
    · cases this
    · omega
  · intro h k hk
    simp only [readCheck]
    rw [if_neg (by omega)]

/-- A read that is not allowed raises ReadBounds at max(base, MEM_SIZE). -/
theorem readFault_eq {base n : Nat} (h : n ≠ 0) (hn : Config.memSize < base + n) :
    firstFault readCheck base n = some (.readBounds, max base Config.memSize) := by
  rw [firstFault_eq_some]
  refine ⟨max base Config.memSize - base, by omega, by omega, ?_, ?_⟩
  · rw [readCheck, if_pos (by omega)]
  · intro j hj
    rw [readCheck, if_neg (by omega)]

/-- A write of `n` bytes is allowed exactly when all of them are cells outside the font. -/
theorem writeAllowed_iff {base n : Nat} :
    firstFault writeCheck base n = none ↔
      n = 0 ∨ (Config.fontEnd ≤ base ∧ base + n ≤ Config.memSize) := by
  rw [firstFault_eq_none]
  constructor
  · intro h
    by_contra hc
    have h0 := h 0 (by omega)
    have h1 := h (n - 1) (by omega)
    simp only [writeCheck] at h0 h1
    split at h0
    · cases h0
    · split at h0
      · cases h0
      · split at h1
        · cases h1
        · omega
  · intro h k hk
    simp only [writeCheck]
    rw [if_neg (by omega), if_neg (by omega)]

/-- A write that starts in the font raises FontWrite at its first address. -/
theorem writeFault_font {base n : Nat} (h : n ≠ 0) (hb : base < Config.fontEnd) :
    firstFault writeCheck base n = some (.fontWrite, base) := by
  rw [firstFault_eq_some]
  refine ⟨0, by omega, rfl, ?_, by omega⟩
  have : ¬ Config.memSize ≤ base := by simp only [Config.memSize, Config.fontEnd] at *; omega
  rw [writeCheck, if_neg this, if_pos hb]

/-- A write past the cells that starts outside the font raises WriteBounds at max(base, MEM_SIZE). -/
theorem writeFault_bounds {base n : Nat} (h : n ≠ 0) (hb : Config.fontEnd ≤ base)
    (hn : Config.memSize < base + n) :
    firstFault writeCheck base n = some (.writeBounds, max base Config.memSize) := by
  rw [firstFault_eq_some]
  refine ⟨max base Config.memSize - base, by omega, by omega, ?_, ?_⟩
  · rw [writeCheck, if_pos (by omega)]
  · intro j hj
    rw [writeCheck, if_neg (by omega), if_neg (by omega)]

end Sys2Proof.Machine
end

