-- ==== Sys2Proof/Laws/State.lean ====
section
/-! SUPPORT. One lemma per field per update of State, true by rfl, so that no proof unfolds a record
update; then the accessors over the updates. -/

namespace Sys2Proof.Machine

/-! ## setV -/

@[simp] theorem State.setV_mem (s : State) (x : Reg) (b : Byte) : (s.setV x b).mem = s.mem := rfl
@[simp] theorem State.setV_v (s : State) (x : Reg) (b : Byte) : (s.setV x b).v = s.v.set x b := rfl
@[simp] theorem State.setV_i (s : State) (x : Reg) (b : Byte) : (s.setV x b).i = s.i := rfl
@[simp] theorem State.setV_pc (s : State) (x : Reg) (b : Byte) : (s.setV x b).pc = s.pc := rfl
@[simp] theorem State.setV_stack (s : State) (x : Reg) (b : Byte) : (s.setV x b).stack = s.stack := rfl
@[simp] theorem State.setV_dt (s : State) (x : Reg) (b : Byte) : (s.setV x b).dt = s.dt := rfl
@[simp] theorem State.setV_st (s : State) (x : Reg) (b : Byte) : (s.setV x b).st = s.st := rfl
@[simp] theorem State.setV_disp (s : State) (x : Reg) (b : Byte) : (s.setV x b).disp = s.disp := rfl
@[simp] theorem State.setV_loaded (s : State) (x : Reg) (b : Byte) : (s.setV x b).loaded = s.loaded := rfl
@[simp] theorem State.setV_fault (s : State) (x : Reg) (b : Byte) : (s.setV x b).fault = s.fault := rfl
@[simp] theorem State.setV_params (s : State) (x : Reg) (b : Byte) : (s.setV x b).params = s.params := rfl
@[simp] theorem State.setV_host (s : State) (x : Reg) (b : Byte) : (s.setV x b).host = s.host := rfl
@[simp] theorem State.setV_draws (s : State) (x : Reg) (b : Byte) : (s.setV x b).draws = s.draws := rfl
@[simp] theorem State.setV_status (s : State) (x : Reg) (b : Byte) : (s.setV x b).status = s.status := rfl
@[simp] theorem State.setV_events (s : State) (x : Reg) (b : Byte) : (s.setV x b).events = s.events := rfl
@[simp] theorem State.setV_loadOpen (s : State) (x : Reg) (b : Byte) : (s.setV x b).loadOpen = s.loadOpen := rfl

/-! ## setRegs -/

@[simp] theorem State.setRegs_mem (s : State) (u : Vector Byte 16) : (s.setRegs u).mem = s.mem := rfl
@[simp] theorem State.setRegs_v (s : State) (u : Vector Byte 16) : (s.setRegs u).v = u := rfl
@[simp] theorem State.setRegs_i (s : State) (u : Vector Byte 16) : (s.setRegs u).i = s.i := rfl
@[simp] theorem State.setRegs_pc (s : State) (u : Vector Byte 16) : (s.setRegs u).pc = s.pc := rfl
@[simp] theorem State.setRegs_stack (s : State) (u : Vector Byte 16) : (s.setRegs u).stack = s.stack := rfl
@[simp] theorem State.setRegs_dt (s : State) (u : Vector Byte 16) : (s.setRegs u).dt = s.dt := rfl
@[simp] theorem State.setRegs_st (s : State) (u : Vector Byte 16) : (s.setRegs u).st = s.st := rfl
@[simp] theorem State.setRegs_disp (s : State) (u : Vector Byte 16) : (s.setRegs u).disp = s.disp := rfl
@[simp] theorem State.setRegs_loaded (s : State) (u : Vector Byte 16) : (s.setRegs u).loaded = s.loaded := rfl
@[simp] theorem State.setRegs_fault (s : State) (u : Vector Byte 16) : (s.setRegs u).fault = s.fault := rfl
@[simp] theorem State.setRegs_params (s : State) (u : Vector Byte 16) : (s.setRegs u).params = s.params := rfl
@[simp] theorem State.setRegs_host (s : State) (u : Vector Byte 16) : (s.setRegs u).host = s.host := rfl
@[simp] theorem State.setRegs_draws (s : State) (u : Vector Byte 16) : (s.setRegs u).draws = s.draws := rfl
@[simp] theorem State.setRegs_status (s : State) (u : Vector Byte 16) : (s.setRegs u).status = s.status := rfl
@[simp] theorem State.setRegs_events (s : State) (u : Vector Byte 16) : (s.setRegs u).events = s.events := rfl
@[simp] theorem State.setRegs_loadOpen (s : State) (u : Vector Byte 16) : (s.setRegs u).loadOpen = s.loadOpen := rfl

/-! ## setI -/

@[simp] theorem State.setI_mem (s : State) (w : Word) : (s.setI w).mem = s.mem := rfl
@[simp] theorem State.setI_v (s : State) (w : Word) : (s.setI w).v = s.v := rfl
@[simp] theorem State.setI_i (s : State) (w : Word) : (s.setI w).i = w := rfl
@[simp] theorem State.setI_pc (s : State) (w : Word) : (s.setI w).pc = s.pc := rfl
@[simp] theorem State.setI_stack (s : State) (w : Word) : (s.setI w).stack = s.stack := rfl
@[simp] theorem State.setI_dt (s : State) (w : Word) : (s.setI w).dt = s.dt := rfl
@[simp] theorem State.setI_st (s : State) (w : Word) : (s.setI w).st = s.st := rfl
@[simp] theorem State.setI_disp (s : State) (w : Word) : (s.setI w).disp = s.disp := rfl
@[simp] theorem State.setI_loaded (s : State) (w : Word) : (s.setI w).loaded = s.loaded := rfl
@[simp] theorem State.setI_fault (s : State) (w : Word) : (s.setI w).fault = s.fault := rfl
@[simp] theorem State.setI_params (s : State) (w : Word) : (s.setI w).params = s.params := rfl
@[simp] theorem State.setI_host (s : State) (w : Word) : (s.setI w).host = s.host := rfl
@[simp] theorem State.setI_draws (s : State) (w : Word) : (s.setI w).draws = s.draws := rfl
@[simp] theorem State.setI_status (s : State) (w : Word) : (s.setI w).status = s.status := rfl
@[simp] theorem State.setI_events (s : State) (w : Word) : (s.setI w).events = s.events := rfl
@[simp] theorem State.setI_loadOpen (s : State) (w : Word) : (s.setI w).loadOpen = s.loadOpen := rfl

/-! ## setPc -/

@[simp] theorem State.setPc_mem (s : State) (w : Word) : (s.setPc w).mem = s.mem := rfl
@[simp] theorem State.setPc_v (s : State) (w : Word) : (s.setPc w).v = s.v := rfl
@[simp] theorem State.setPc_i (s : State) (w : Word) : (s.setPc w).i = s.i := rfl
@[simp] theorem State.setPc_pc (s : State) (w : Word) : (s.setPc w).pc = w := rfl
@[simp] theorem State.setPc_stack (s : State) (w : Word) : (s.setPc w).stack = s.stack := rfl
@[simp] theorem State.setPc_dt (s : State) (w : Word) : (s.setPc w).dt = s.dt := rfl
@[simp] theorem State.setPc_st (s : State) (w : Word) : (s.setPc w).st = s.st := rfl
@[simp] theorem State.setPc_disp (s : State) (w : Word) : (s.setPc w).disp = s.disp := rfl
@[simp] theorem State.setPc_loaded (s : State) (w : Word) : (s.setPc w).loaded = s.loaded := rfl
@[simp] theorem State.setPc_fault (s : State) (w : Word) : (s.setPc w).fault = s.fault := rfl
@[simp] theorem State.setPc_params (s : State) (w : Word) : (s.setPc w).params = s.params := rfl
@[simp] theorem State.setPc_host (s : State) (w : Word) : (s.setPc w).host = s.host := rfl
@[simp] theorem State.setPc_draws (s : State) (w : Word) : (s.setPc w).draws = s.draws := rfl
@[simp] theorem State.setPc_status (s : State) (w : Word) : (s.setPc w).status = s.status := rfl
@[simp] theorem State.setPc_events (s : State) (w : Word) : (s.setPc w).events = s.events := rfl
@[simp] theorem State.setPc_loadOpen (s : State) (w : Word) : (s.setPc w).loadOpen = s.loadOpen := rfl

/-! ## setStack -/

@[simp] theorem State.setStack_mem (s : State) (l : List Word) : (s.setStack l).mem = s.mem := rfl
@[simp] theorem State.setStack_v (s : State) (l : List Word) : (s.setStack l).v = s.v := rfl
@[simp] theorem State.setStack_i (s : State) (l : List Word) : (s.setStack l).i = s.i := rfl
@[simp] theorem State.setStack_pc (s : State) (l : List Word) : (s.setStack l).pc = s.pc := rfl
@[simp] theorem State.setStack_stack (s : State) (l : List Word) : (s.setStack l).stack = l := rfl
@[simp] theorem State.setStack_dt (s : State) (l : List Word) : (s.setStack l).dt = s.dt := rfl
@[simp] theorem State.setStack_st (s : State) (l : List Word) : (s.setStack l).st = s.st := rfl
@[simp] theorem State.setStack_disp (s : State) (l : List Word) : (s.setStack l).disp = s.disp := rfl
@[simp] theorem State.setStack_loaded (s : State) (l : List Word) : (s.setStack l).loaded = s.loaded := rfl
@[simp] theorem State.setStack_fault (s : State) (l : List Word) : (s.setStack l).fault = s.fault := rfl
@[simp] theorem State.setStack_params (s : State) (l : List Word) : (s.setStack l).params = s.params := rfl
@[simp] theorem State.setStack_host (s : State) (l : List Word) : (s.setStack l).host = s.host := rfl
@[simp] theorem State.setStack_draws (s : State) (l : List Word) : (s.setStack l).draws = s.draws := rfl
@[simp] theorem State.setStack_status (s : State) (l : List Word) : (s.setStack l).status = s.status := rfl
@[simp] theorem State.setStack_events (s : State) (l : List Word) : (s.setStack l).events = s.events := rfl
@[simp] theorem State.setStack_loadOpen (s : State) (l : List Word) : (s.setStack l).loadOpen = s.loadOpen := rfl

/-! ## setDt -/

@[simp] theorem State.setDt_mem (s : State) (b : Byte) : (s.setDt b).mem = s.mem := rfl
@[simp] theorem State.setDt_v (s : State) (b : Byte) : (s.setDt b).v = s.v := rfl
@[simp] theorem State.setDt_i (s : State) (b : Byte) : (s.setDt b).i = s.i := rfl
@[simp] theorem State.setDt_pc (s : State) (b : Byte) : (s.setDt b).pc = s.pc := rfl
@[simp] theorem State.setDt_stack (s : State) (b : Byte) : (s.setDt b).stack = s.stack := rfl
@[simp] theorem State.setDt_dt (s : State) (b : Byte) : (s.setDt b).dt = b := rfl
@[simp] theorem State.setDt_st (s : State) (b : Byte) : (s.setDt b).st = s.st := rfl
@[simp] theorem State.setDt_disp (s : State) (b : Byte) : (s.setDt b).disp = s.disp := rfl
@[simp] theorem State.setDt_loaded (s : State) (b : Byte) : (s.setDt b).loaded = s.loaded := rfl
@[simp] theorem State.setDt_fault (s : State) (b : Byte) : (s.setDt b).fault = s.fault := rfl
@[simp] theorem State.setDt_params (s : State) (b : Byte) : (s.setDt b).params = s.params := rfl
@[simp] theorem State.setDt_host (s : State) (b : Byte) : (s.setDt b).host = s.host := rfl
@[simp] theorem State.setDt_draws (s : State) (b : Byte) : (s.setDt b).draws = s.draws := rfl
@[simp] theorem State.setDt_status (s : State) (b : Byte) : (s.setDt b).status = s.status := rfl
@[simp] theorem State.setDt_events (s : State) (b : Byte) : (s.setDt b).events = s.events := rfl
@[simp] theorem State.setDt_loadOpen (s : State) (b : Byte) : (s.setDt b).loadOpen = s.loadOpen := rfl

/-! ## setSt -/

@[simp] theorem State.setSt_mem (s : State) (b : Byte) : (s.setSt b).mem = s.mem := rfl
@[simp] theorem State.setSt_v (s : State) (b : Byte) : (s.setSt b).v = s.v := rfl
@[simp] theorem State.setSt_i (s : State) (b : Byte) : (s.setSt b).i = s.i := rfl
@[simp] theorem State.setSt_pc (s : State) (b : Byte) : (s.setSt b).pc = s.pc := rfl
@[simp] theorem State.setSt_stack (s : State) (b : Byte) : (s.setSt b).stack = s.stack := rfl
@[simp] theorem State.setSt_dt (s : State) (b : Byte) : (s.setSt b).dt = s.dt := rfl
@[simp] theorem State.setSt_st (s : State) (b : Byte) : (s.setSt b).st = b := rfl
@[simp] theorem State.setSt_disp (s : State) (b : Byte) : (s.setSt b).disp = s.disp := rfl
@[simp] theorem State.setSt_loaded (s : State) (b : Byte) : (s.setSt b).loaded = s.loaded := rfl
@[simp] theorem State.setSt_fault (s : State) (b : Byte) : (s.setSt b).fault = s.fault := rfl
@[simp] theorem State.setSt_params (s : State) (b : Byte) : (s.setSt b).params = s.params := rfl
@[simp] theorem State.setSt_host (s : State) (b : Byte) : (s.setSt b).host = s.host := rfl
@[simp] theorem State.setSt_draws (s : State) (b : Byte) : (s.setSt b).draws = s.draws := rfl
@[simp] theorem State.setSt_status (s : State) (b : Byte) : (s.setSt b).status = s.status := rfl
@[simp] theorem State.setSt_events (s : State) (b : Byte) : (s.setSt b).events = s.events := rfl
@[simp] theorem State.setSt_loadOpen (s : State) (b : Byte) : (s.setSt b).loadOpen = s.loadOpen := rfl

/-! ## setDisp -/

@[simp] theorem State.setDisp_mem (s : State) (d : Vector (BitVec 64) 32) : (s.setDisp d).mem = s.mem := rfl
@[simp] theorem State.setDisp_v (s : State) (d : Vector (BitVec 64) 32) : (s.setDisp d).v = s.v := rfl
@[simp] theorem State.setDisp_i (s : State) (d : Vector (BitVec 64) 32) : (s.setDisp d).i = s.i := rfl
@[simp] theorem State.setDisp_pc (s : State) (d : Vector (BitVec 64) 32) : (s.setDisp d).pc = s.pc := rfl
@[simp] theorem State.setDisp_stack (s : State) (d : Vector (BitVec 64) 32) : (s.setDisp d).stack = s.stack := rfl
@[simp] theorem State.setDisp_dt (s : State) (d : Vector (BitVec 64) 32) : (s.setDisp d).dt = s.dt := rfl
@[simp] theorem State.setDisp_st (s : State) (d : Vector (BitVec 64) 32) : (s.setDisp d).st = s.st := rfl
@[simp] theorem State.setDisp_disp (s : State) (d : Vector (BitVec 64) 32) : (s.setDisp d).disp = d := rfl
@[simp] theorem State.setDisp_loaded (s : State) (d : Vector (BitVec 64) 32) : (s.setDisp d).loaded = s.loaded := rfl
@[simp] theorem State.setDisp_fault (s : State) (d : Vector (BitVec 64) 32) : (s.setDisp d).fault = s.fault := rfl
@[simp] theorem State.setDisp_params (s : State) (d : Vector (BitVec 64) 32) : (s.setDisp d).params = s.params := rfl
@[simp] theorem State.setDisp_host (s : State) (d : Vector (BitVec 64) 32) : (s.setDisp d).host = s.host := rfl
@[simp] theorem State.setDisp_draws (s : State) (d : Vector (BitVec 64) 32) : (s.setDisp d).draws = s.draws := rfl
@[simp] theorem State.setDisp_status (s : State) (d : Vector (BitVec 64) 32) : (s.setDisp d).status = s.status := rfl
@[simp] theorem State.setDisp_events (s : State) (d : Vector (BitVec 64) 32) : (s.setDisp d).events = s.events := rfl
@[simp] theorem State.setDisp_loadOpen (s : State) (d : Vector (BitVec 64) 32) : (s.setDisp d).loadOpen = s.loadOpen := rfl

/-! ## setMem -/

@[simp] theorem State.setMem_mem (s : State) (m : List Host.Cell) : (s.setMem m).mem = m := rfl
@[simp] theorem State.setMem_v (s : State) (m : List Host.Cell) : (s.setMem m).v = s.v := rfl
@[simp] theorem State.setMem_i (s : State) (m : List Host.Cell) : (s.setMem m).i = s.i := rfl
@[simp] theorem State.setMem_pc (s : State) (m : List Host.Cell) : (s.setMem m).pc = s.pc := rfl
@[simp] theorem State.setMem_stack (s : State) (m : List Host.Cell) : (s.setMem m).stack = s.stack := rfl
@[simp] theorem State.setMem_dt (s : State) (m : List Host.Cell) : (s.setMem m).dt = s.dt := rfl
@[simp] theorem State.setMem_st (s : State) (m : List Host.Cell) : (s.setMem m).st = s.st := rfl
@[simp] theorem State.setMem_disp (s : State) (m : List Host.Cell) : (s.setMem m).disp = s.disp := rfl
@[simp] theorem State.setMem_loaded (s : State) (m : List Host.Cell) : (s.setMem m).loaded = s.loaded := rfl
@[simp] theorem State.setMem_fault (s : State) (m : List Host.Cell) : (s.setMem m).fault = s.fault := rfl
@[simp] theorem State.setMem_params (s : State) (m : List Host.Cell) : (s.setMem m).params = s.params := rfl
@[simp] theorem State.setMem_host (s : State) (m : List Host.Cell) : (s.setMem m).host = s.host := rfl
@[simp] theorem State.setMem_draws (s : State) (m : List Host.Cell) : (s.setMem m).draws = s.draws := rfl
@[simp] theorem State.setMem_status (s : State) (m : List Host.Cell) : (s.setMem m).status = s.status := rfl
@[simp] theorem State.setMem_events (s : State) (m : List Host.Cell) : (s.setMem m).events = s.events := rfl
@[simp] theorem State.setMem_loadOpen (s : State) (m : List Host.Cell) : (s.setMem m).loadOpen = s.loadOpen := rfl

/-! ## setLoaded -/

@[simp] theorem State.setLoaded_mem (s : State) (c : Bool) : (s.setLoaded c).mem = s.mem := rfl
@[simp] theorem State.setLoaded_v (s : State) (c : Bool) : (s.setLoaded c).v = s.v := rfl
@[simp] theorem State.setLoaded_i (s : State) (c : Bool) : (s.setLoaded c).i = s.i := rfl
@[simp] theorem State.setLoaded_pc (s : State) (c : Bool) : (s.setLoaded c).pc = s.pc := rfl
@[simp] theorem State.setLoaded_stack (s : State) (c : Bool) : (s.setLoaded c).stack = s.stack := rfl
@[simp] theorem State.setLoaded_dt (s : State) (c : Bool) : (s.setLoaded c).dt = s.dt := rfl
@[simp] theorem State.setLoaded_st (s : State) (c : Bool) : (s.setLoaded c).st = s.st := rfl
@[simp] theorem State.setLoaded_disp (s : State) (c : Bool) : (s.setLoaded c).disp = s.disp := rfl
@[simp] theorem State.setLoaded_loaded (s : State) (c : Bool) : (s.setLoaded c).loaded = c := rfl
@[simp] theorem State.setLoaded_fault (s : State) (c : Bool) : (s.setLoaded c).fault = s.fault := rfl
@[simp] theorem State.setLoaded_params (s : State) (c : Bool) : (s.setLoaded c).params = s.params := rfl
@[simp] theorem State.setLoaded_host (s : State) (c : Bool) : (s.setLoaded c).host = s.host := rfl
@[simp] theorem State.setLoaded_draws (s : State) (c : Bool) : (s.setLoaded c).draws = s.draws := rfl
@[simp] theorem State.setLoaded_status (s : State) (c : Bool) : (s.setLoaded c).status = s.status := rfl
@[simp] theorem State.setLoaded_events (s : State) (c : Bool) : (s.setLoaded c).events = s.events := rfl
@[simp] theorem State.setLoaded_loadOpen (s : State) (c : Bool) : (s.setLoaded c).loadOpen = s.loadOpen := rfl

/-! ## report -/

@[simp] theorem State.report_mem (s : State) (r : Option Status) (e : List ToneRequest) : (s.report r e).mem = s.mem := rfl
@[simp] theorem State.report_v (s : State) (r : Option Status) (e : List ToneRequest) : (s.report r e).v = s.v := rfl
@[simp] theorem State.report_i (s : State) (r : Option Status) (e : List ToneRequest) : (s.report r e).i = s.i := rfl
@[simp] theorem State.report_pc (s : State) (r : Option Status) (e : List ToneRequest) : (s.report r e).pc = s.pc := rfl
@[simp] theorem State.report_stack (s : State) (r : Option Status) (e : List ToneRequest) : (s.report r e).stack = s.stack := rfl
@[simp] theorem State.report_dt (s : State) (r : Option Status) (e : List ToneRequest) : (s.report r e).dt = s.dt := rfl
@[simp] theorem State.report_st (s : State) (r : Option Status) (e : List ToneRequest) : (s.report r e).st = s.st := rfl
@[simp] theorem State.report_disp (s : State) (r : Option Status) (e : List ToneRequest) : (s.report r e).disp = s.disp := rfl
@[simp] theorem State.report_loaded (s : State) (r : Option Status) (e : List ToneRequest) : (s.report r e).loaded = s.loaded := rfl
@[simp] theorem State.report_fault (s : State) (r : Option Status) (e : List ToneRequest) : (s.report r e).fault = s.fault := rfl
@[simp] theorem State.report_params (s : State) (r : Option Status) (e : List ToneRequest) : (s.report r e).params = s.params := rfl
@[simp] theorem State.report_host (s : State) (r : Option Status) (e : List ToneRequest) : (s.report r e).host = s.host := rfl
@[simp] theorem State.report_draws (s : State) (r : Option Status) (e : List ToneRequest) : (s.report r e).draws = s.draws := rfl
@[simp] theorem State.report_status (s : State) (r : Option Status) (e : List ToneRequest) : (s.report r e).status = r := rfl
@[simp] theorem State.report_events (s : State) (r : Option Status) (e : List ToneRequest) : (s.report r e).events = e := rfl
@[simp] theorem State.report_loadOpen (s : State) (r : Option Status) (e : List ToneRequest) : (s.report r e).loadOpen = s.loadOpen := rfl

/-! ## raise -/

@[simp] theorem State.raise_mem (s : State) (w : Option Word) (f : Fault) (a : Option Nat) (u : Option FaultValue) : (s.raise w f a u).mem = s.mem := rfl
@[simp] theorem State.raise_v (s : State) (w : Option Word) (f : Fault) (a : Option Nat) (u : Option FaultValue) : (s.raise w f a u).v = s.v := rfl
@[simp] theorem State.raise_i (s : State) (w : Option Word) (f : Fault) (a : Option Nat) (u : Option FaultValue) : (s.raise w f a u).i = s.i := rfl
@[simp] theorem State.raise_pc (s : State) (w : Option Word) (f : Fault) (a : Option Nat) (u : Option FaultValue) : (s.raise w f a u).pc = s.pc := rfl
@[simp] theorem State.raise_stack (s : State) (w : Option Word) (f : Fault) (a : Option Nat) (u : Option FaultValue) : (s.raise w f a u).stack = s.stack := rfl
@[simp] theorem State.raise_dt (s : State) (w : Option Word) (f : Fault) (a : Option Nat) (u : Option FaultValue) : (s.raise w f a u).dt = s.dt := rfl
@[simp] theorem State.raise_st (s : State) (w : Option Word) (f : Fault) (a : Option Nat) (u : Option FaultValue) : (s.raise w f a u).st = s.st := rfl
@[simp] theorem State.raise_disp (s : State) (w : Option Word) (f : Fault) (a : Option Nat) (u : Option FaultValue) : (s.raise w f a u).disp = s.disp := rfl
@[simp] theorem State.raise_loaded (s : State) (w : Option Word) (f : Fault) (a : Option Nat) (u : Option FaultValue) : (s.raise w f a u).loaded = s.loaded := rfl
@[simp] theorem State.raise_fault (s : State) (w : Option Word) (f : Fault) (a : Option Nat) (u : Option FaultValue) : (s.raise w f a u).fault = some ⟨f, s.pc, w, a, u⟩ := rfl
@[simp] theorem State.raise_params (s : State) (w : Option Word) (f : Fault) (a : Option Nat) (u : Option FaultValue) : (s.raise w f a u).params = s.params := rfl
@[simp] theorem State.raise_host (s : State) (w : Option Word) (f : Fault) (a : Option Nat) (u : Option FaultValue) : (s.raise w f a u).host = s.host := rfl
@[simp] theorem State.raise_draws (s : State) (w : Option Word) (f : Fault) (a : Option Nat) (u : Option FaultValue) : (s.raise w f a u).draws = s.draws := rfl
@[simp] theorem State.raise_status (s : State) (w : Option Word) (f : Fault) (a : Option Nat) (u : Option FaultValue) : (s.raise w f a u).status = some (.fault ⟨f, s.pc, w, a, u⟩) := rfl
@[simp] theorem State.raise_events (s : State) (w : Option Word) (f : Fault) (a : Option Nat) (u : Option FaultValue) : (s.raise w f a u).events = [] := rfl
@[simp] theorem State.raise_loadOpen (s : State) (w : Option Word) (f : Fault) (a : Option Nat) (u : Option FaultValue) : (s.raise w f a u).loadOpen = s.loadOpen := rfl

/-! ## served -/

@[simp] theorem State.served_mem (s : State) : (s.served).mem = s.mem := rfl
@[simp] theorem State.served_v (s : State) : (s.served).v = s.v := rfl
@[simp] theorem State.served_i (s : State) : (s.served).i = s.i := rfl
@[simp] theorem State.served_pc (s : State) : (s.served).pc = s.pc := rfl
@[simp] theorem State.served_stack (s : State) : (s.served).stack = s.stack := rfl
@[simp] theorem State.served_dt (s : State) : (s.served).dt = s.dt := rfl
@[simp] theorem State.served_st (s : State) : (s.served).st = s.st := rfl
@[simp] theorem State.served_disp (s : State) : (s.served).disp = s.disp := rfl
@[simp] theorem State.served_loaded (s : State) : (s.served).loaded = s.loaded := rfl
@[simp] theorem State.served_fault (s : State) : (s.served).fault = s.fault := rfl
@[simp] theorem State.served_params (s : State) : (s.served).params = s.params := rfl
@[simp] theorem State.served_host (s : State) : (s.served).host = s.host.tail := rfl
@[simp] theorem State.served_draws (s : State) : (s.served).draws = s.draws + 1 := rfl
@[simp] theorem State.served_status (s : State) : (s.served).status = s.status := rfl
@[simp] theorem State.served_events (s : State) : (s.served).events = s.events := rfl
@[simp] theorem State.served_loadOpen (s : State) : (s.served).loadOpen = loadOpenAfter s.host s.loadOpen := rfl

/-! ## The named ends and moves, in terms of the updates -/

@[simp] theorem State.advance_eq (s : State) : s.advance = s.setPc (s.pc + 2) := rfl
@[simp] theorem State.skipIf_eq (s : State) (c : Bool) :
    s.skipIf c = s.setPc (s.pc + (if c then 2 else 0)) := rfl
@[simp] theorem State.complete_eq (s : State) : s.complete = s.report (some .ok) [] := rfl
@[simp] theorem State.wait_eq (s : State) : s.wait = s.report (some .waiting) [] := rfl

/-! ## Accessors over the updates -/

theorem State.getV_eq (s : State) (x : Reg) : s.getV x = s.v[x] := rfl

@[simp] theorem State.getV_setV_same (s : State) (x : Reg) (b : Byte) : (s.setV x b).getV x = b := by
  simp [State.getV, State.setV]

theorem State.getV_setV_ne (s : State) {x z : Reg} (b : Byte) (h : z ≠ x) :
    (s.setV x b).getV z = s.getV z := by
  have hv : x.val ≠ z.val := fun e => h (Fin.ext e.symm)
  simp [State.getV, State.setV, hv]

theorem State.getV_setV (s : State) (x z : Reg) (b : Byte) :
    (s.setV x b).getV z = if z = x then b else s.getV z := by
  split
  · next h => subst h; simp
  · next h => exact s.getV_setV_ne b h

@[simp] theorem State.pixel_setV (s : State) (x : Reg) (b : Byte) (p q : Nat) : (s.setV x b).pixel p q = s.pixel p q := rfl
@[simp] theorem State.readByte_setV (s : State) (x : Reg) (b : Byte) (p : Nat) : (s.setV x b).readByte p = s.readByte p := rfl
@[simp] theorem State.keys_setV (s : State) (x : Reg) (b : Byte) : (s.setV x b).keys = s.keys := rfl
@[simp] theorem State.rnd_setV (s : State) (x : Reg) (b : Byte) : (s.setV x b).rnd = s.rnd := rfl
@[simp] theorem State.pixel_setRegs (s : State) (u : Vector Byte 16) (p q : Nat) : (s.setRegs u).pixel p q = s.pixel p q := rfl
@[simp] theorem State.readByte_setRegs (s : State) (u : Vector Byte 16) (p : Nat) : (s.setRegs u).readByte p = s.readByte p := rfl
@[simp] theorem State.keys_setRegs (s : State) (u : Vector Byte 16) : (s.setRegs u).keys = s.keys := rfl
@[simp] theorem State.rnd_setRegs (s : State) (u : Vector Byte 16) : (s.setRegs u).rnd = s.rnd := rfl
@[simp] theorem State.getV_setI (s : State) (w : Word) (z : Reg) : (s.setI w).getV z = s.getV z := rfl
@[simp] theorem State.pixel_setI (s : State) (w : Word) (p q : Nat) : (s.setI w).pixel p q = s.pixel p q := rfl
@[simp] theorem State.readByte_setI (s : State) (w : Word) (p : Nat) : (s.setI w).readByte p = s.readByte p := rfl
@[simp] theorem State.keys_setI (s : State) (w : Word) : (s.setI w).keys = s.keys := rfl
@[simp] theorem State.rnd_setI (s : State) (w : Word) : (s.setI w).rnd = s.rnd := rfl
@[simp] theorem State.getV_setPc (s : State) (w : Word) (z : Reg) : (s.setPc w).getV z = s.getV z := rfl
@[simp] theorem State.pixel_setPc (s : State) (w : Word) (p q : Nat) : (s.setPc w).pixel p q = s.pixel p q := rfl
@[simp] theorem State.readByte_setPc (s : State) (w : Word) (p : Nat) : (s.setPc w).readByte p = s.readByte p := rfl
@[simp] theorem State.keys_setPc (s : State) (w : Word) : (s.setPc w).keys = s.keys := rfl
@[simp] theorem State.rnd_setPc (s : State) (w : Word) : (s.setPc w).rnd = s.rnd := rfl
@[simp] theorem State.getV_setStack (s : State) (l : List Word) (z : Reg) : (s.setStack l).getV z = s.getV z := rfl
@[simp] theorem State.pixel_setStack (s : State) (l : List Word) (p q : Nat) : (s.setStack l).pixel p q = s.pixel p q := rfl
@[simp] theorem State.readByte_setStack (s : State) (l : List Word) (p : Nat) : (s.setStack l).readByte p = s.readByte p := rfl
@[simp] theorem State.keys_setStack (s : State) (l : List Word) : (s.setStack l).keys = s.keys := rfl
@[simp] theorem State.rnd_setStack (s : State) (l : List Word) : (s.setStack l).rnd = s.rnd := rfl
@[simp] theorem State.getV_setDt (s : State) (b : Byte) (z : Reg) : (s.setDt b).getV z = s.getV z := rfl
@[simp] theorem State.pixel_setDt (s : State) (b : Byte) (p q : Nat) : (s.setDt b).pixel p q = s.pixel p q := rfl
@[simp] theorem State.readByte_setDt (s : State) (b : Byte) (p : Nat) : (s.setDt b).readByte p = s.readByte p := rfl
@[simp] theorem State.keys_setDt (s : State) (b : Byte) : (s.setDt b).keys = s.keys := rfl
@[simp] theorem State.rnd_setDt (s : State) (b : Byte) : (s.setDt b).rnd = s.rnd := rfl
@[simp] theorem State.getV_setSt (s : State) (b : Byte) (z : Reg) : (s.setSt b).getV z = s.getV z := rfl
@[simp] theorem State.pixel_setSt (s : State) (b : Byte) (p q : Nat) : (s.setSt b).pixel p q = s.pixel p q := rfl
@[simp] theorem State.readByte_setSt (s : State) (b : Byte) (p : Nat) : (s.setSt b).readByte p = s.readByte p := rfl
@[simp] theorem State.keys_setSt (s : State) (b : Byte) : (s.setSt b).keys = s.keys := rfl
@[simp] theorem State.rnd_setSt (s : State) (b : Byte) : (s.setSt b).rnd = s.rnd := rfl
@[simp] theorem State.getV_setDisp (s : State) (d : Vector (BitVec 64) 32) (z : Reg) : (s.setDisp d).getV z = s.getV z := rfl
@[simp] theorem State.readByte_setDisp (s : State) (d : Vector (BitVec 64) 32) (p : Nat) : (s.setDisp d).readByte p = s.readByte p := rfl
@[simp] theorem State.keys_setDisp (s : State) (d : Vector (BitVec 64) 32) : (s.setDisp d).keys = s.keys := rfl
@[simp] theorem State.rnd_setDisp (s : State) (d : Vector (BitVec 64) 32) : (s.setDisp d).rnd = s.rnd := rfl
@[simp] theorem State.getV_setMem (s : State) (m : List Host.Cell) (z : Reg) : (s.setMem m).getV z = s.getV z := rfl
@[simp] theorem State.pixel_setMem (s : State) (m : List Host.Cell) (p q : Nat) : (s.setMem m).pixel p q = s.pixel p q := rfl
@[simp] theorem State.keys_setMem (s : State) (m : List Host.Cell) : (s.setMem m).keys = s.keys := rfl
@[simp] theorem State.rnd_setMem (s : State) (m : List Host.Cell) : (s.setMem m).rnd = s.rnd := rfl
@[simp] theorem State.getV_setLoaded (s : State) (c : Bool) (z : Reg) : (s.setLoaded c).getV z = s.getV z := rfl
@[simp] theorem State.pixel_setLoaded (s : State) (c : Bool) (p q : Nat) : (s.setLoaded c).pixel p q = s.pixel p q := rfl
@[simp] theorem State.readByte_setLoaded (s : State) (c : Bool) (p : Nat) : (s.setLoaded c).readByte p = s.readByte p := rfl
@[simp] theorem State.keys_setLoaded (s : State) (c : Bool) : (s.setLoaded c).keys = s.keys := rfl
@[simp] theorem State.rnd_setLoaded (s : State) (c : Bool) : (s.setLoaded c).rnd = s.rnd := rfl
@[simp] theorem State.getV_report (s : State) (r : Option Status) (e : List ToneRequest) (z : Reg) : (s.report r e).getV z = s.getV z := rfl
@[simp] theorem State.pixel_report (s : State) (r : Option Status) (e : List ToneRequest) (p q : Nat) : (s.report r e).pixel p q = s.pixel p q := rfl
@[simp] theorem State.readByte_report (s : State) (r : Option Status) (e : List ToneRequest) (p : Nat) : (s.report r e).readByte p = s.readByte p := rfl
@[simp] theorem State.keys_report (s : State) (r : Option Status) (e : List ToneRequest) : (s.report r e).keys = s.keys := rfl
@[simp] theorem State.rnd_report (s : State) (r : Option Status) (e : List ToneRequest) : (s.report r e).rnd = s.rnd := rfl
@[simp] theorem State.getV_raise (s : State) (w : Option Word) (f : Fault) (a : Option Nat) (u : Option FaultValue) (z : Reg) : (s.raise w f a u).getV z = s.getV z := rfl
@[simp] theorem State.pixel_raise (s : State) (w : Option Word) (f : Fault) (a : Option Nat) (u : Option FaultValue) (p q : Nat) : (s.raise w f a u).pixel p q = s.pixel p q := rfl
@[simp] theorem State.readByte_raise (s : State) (w : Option Word) (f : Fault) (a : Option Nat) (u : Option FaultValue) (p : Nat) : (s.raise w f a u).readByte p = s.readByte p := rfl
@[simp] theorem State.keys_raise (s : State) (w : Option Word) (f : Fault) (a : Option Nat) (u : Option FaultValue) : (s.raise w f a u).keys = s.keys := rfl
@[simp] theorem State.rnd_raise (s : State) (w : Option Word) (f : Fault) (a : Option Nat) (u : Option FaultValue) : (s.raise w f a u).rnd = s.rnd := rfl
@[simp] theorem State.getV_served (s : State) (z : Reg) : (s.served).getV z = s.getV z := rfl
@[simp] theorem State.pixel_served (s : State) (p q : Nat) : (s.served).pixel p q = s.pixel p q := rfl
@[simp] theorem State.readByte_served (s : State) (p : Nat) : (s.served).readByte p = s.readByte p := rfl

@[simp] theorem State.getV_setRegs (s : State) (u : Vector Byte 16) (z : Reg) :
    (s.setRegs u).getV z = u[z] := rfl
@[simp] theorem State.readByte_setMem (s : State) (m : List Host.Cell) (p : Nat) :
    (s.setMem m).readByte p = Memory.read m p := rfl
@[simp] theorem State.pixel_setDisp (s : State) (d : Vector (BitVec 64) 32) (p q : Nat) :
    (s.setDisp d).pixel p q = (displayRow d q).getMsbD p := rfl

/-- The inputs of a step the driver's call gives. -/
theorem State.inputs_of_call {s : State} {k : Keys} {r : Byte} {rest : List HostCall}
    (h : s.host = .step k r :: rest) : s.keys = k ∧ s.rnd = r := by
  simp [State.keys, State.rnd, h]

/-- The inputs of a step no queued call gives are free values. -/
theorem State.inputs_free {s : State} (h : s.host = []) :
    s.keys = Config.keys s.draws ∧ s.rnd = Config.rnd s.draws := by
  simp [State.keys, State.rnd, h]

/-! ## onNext -/

@[simp] theorem onNext_next (f : State → State) (s : State) : onNext f (.next s) = .next (f s) := rfl
@[simp] theorem onNext_fault (f : State → State) (r : Fault) : onNext f (.fault r) = .fault r := rfl
@[simp] theorem onNext_refused (f : State → State) (r : Refusal) : onNext f (.refused r) = .refused r := rfl

/-- A next state through `onNext` comes from a next state. -/
theorem onNext_eq_next {f : State → State} {r : Result} {t : State} (h : onNext f r = .next t) :
    ∃ u, r = .next u ∧ t = f u := by
  cases r <;> simp_all [onNext]

end Sys2Proof.Machine
end

