-- ==== Sys2Proof/Laws/Ops.lean ====
section
/-! SUPPORT. What each shared operation can do, said once: the storing and loading operations, the sprite
operations pixel by pixel, the register list, the tick, the fetch; exec always answers a next state. -/

namespace Sys2Proof.Machine

/-! ## Stores and loads through I -/

/-- A store through I either writes every byte or raises for the lowest address that offends. -/
theorem State.storeThroughI_cases (s : State) (w : Word) (bs : List Byte) (done : State → State) :
    (∃ f a, firstFault writeCheck s.i.toNat bs.length = some (f, a) ∧
      s.storeThroughI w bs done = s.raise (some w) f (some a) none) ∨
    (firstFault writeCheck s.i.toNat bs.length = none ∧
      s.storeThroughI w bs done = done (s.advance.setMem (Memory.writeList s.mem s.i.toNat bs))) := by
  unfold State.storeThroughI
  cases h : firstFault writeCheck s.i.toNat bs.length with
  | none => exact .inr ⟨rfl, rfl⟩
  | some p => exact .inl ⟨p.1, p.2, rfl, rfl⟩

/-- A load through I either reads every byte or raises for the lowest address that is no cell. -/
theorem State.loadThroughI_cases (s : State) (w : Word) (n : Nat) (done : List Byte → State) :
    (∃ f a, firstFault readCheck s.i.toNat n = some (f, a) ∧
      s.loadThroughI w n done = s.raise (some w) f (some a) none) ∨
    (firstFault readCheck s.i.toNat n = none ∧
      s.loadThroughI w n done = done (Memory.readList s.mem s.i.toNat n)) := by
  unfold State.loadThroughI
  cases h : firstFault readCheck s.i.toNat n with
  | none => exact .inr ⟨rfl, rfl⟩
  | some p => exact .inl ⟨p.1, p.2, rfl, rfl⟩

/-! ## Registers as a list -/

@[simp] theorem State.length_regsUpTo (s : State) (x : Reg) : (s.regsUpTo x).length = x.val + 1 := by
  simp [State.regsUpTo]

/-- The k-th byte of V0..VX is V[k]. -/
theorem State.getD_regsUpTo (s : State) {x k : Reg} (h : k ≤ x) :
    (s.regsUpTo x).getD k.val 0 = s.getV k := by
  have hk : k.val < x.val + 1 := by
    have := Fin.le_def.1 h
    omega
  simp [State.regsUpTo, State.getV, hk]

/-- What `setRegsFrom` leaves in each register. -/
theorem getElem_setRegsFrom (v : Vector Byte 16) (k : Nat) (bs : List Byte) (z : Nat) (hz : z < 16) :
    (setRegsFrom v k bs)[z] = if k ≤ z ∧ z < k + bs.length then bs.getD (z - k) 0 else v[z] := by
  induction bs generalizing v k with
  | nil => rw [setRegsFrom, List.length_nil, if_neg (by omega)]
  | cons b bs ih =>
    rw [setRegsFrom, ih, List.length_cons]
    by_cases hkz : z = k
    · subst hkz
      rw [if_neg (by omega), if_pos (by omega)]
      simp
    · by_cases hr : k + 1 ≤ z ∧ z < k + 1 + bs.length
      · rw [if_pos hr, if_pos (by omega), show z - k = (z - (k + 1)) + 1 by omega, List.getD_cons_succ]
      · rw [if_neg hr, if_neg (by omega), Vector.getElem_setIfInBounds, if_neg (by omega)]

/-! ## Sprites -/

/-- The pixel a sprite byte sets in column x: bit 7 - (x - x0), inside the 8 columns from x0 on. -/
theorem getMsbD_spriteMask (b : Byte) (x0 x : Nat) (h : x < 64) :
    (spriteMask b x0).getMsbD x = (decide (x0 ≤ x) && b.getMsbD (x - x0)) := by
  unfold spriteMask
  rw [BitVec.getMsbD_ushiftRight]
  by_cases hx : x < x0
  · simp [hx]
  · by_cases h8 : x - x0 < 8
    · have key : (b ++ 0#56).getMsbD (x - x0) = b.getMsbD (x - x0) := by
        simp only [BitVec.getMsbD, BitVec.getLsbD_append]
        rw [if_neg (by omega), show 8 + 56 - 1 - (x - x0) - 56 = 8 - 1 - (x - x0) by omega]
        simp [h8, show x - x0 < 64 by omega]
      simp [hx, h, show x0 ≤ x by omega, key]
    · have key : (b ++ 0#56).getMsbD (x - x0) = false := by
        simp only [BitVec.getMsbD, BitVec.getLsbD_append]
        rw [if_pos (by omega)]
        simp
      have key' : b.getMsbD (x - x0) = false := by simp [BitVec.getMsbD, h8]
      simp [key, key']

/-- A row of the display after a row was replaced. -/
theorem displayRow_setIfInBounds (d : Vector (BitVec 64) 32) (y q : Nat) (r : BitVec 64) (hq : q < 32) :
    displayRow (d.setIfInBounds y r) q = if q = y then r else displayRow d q := by
  unfold displayRow
  rw [Vector.getElem?_setIfInBounds]
  by_cases h : y = q
  · subst h; simp [hq]
  · rw [if_neg h, if_neg (fun e => h e.symm)]

/-- A row of the display after the rows `bs` were drawn from row `y` on. -/
theorem displayRow_drawRows (d : Vector (BitVec 64) 32) (x0 y : Nat) (bs : List Byte) (q : Nat)
    (hq : q < 32) :
    displayRow (drawRows d x0 y bs) q =
      if y ≤ q ∧ q < y + bs.length then displayRow d q ^^^ spriteMask (bs.getD (q - y) 0) x0
      else displayRow d q := by
  induction bs generalizing d y with
  | nil => rw [drawRows, List.length_nil, if_neg (by omega)]
  | cons b bs ih =>
    rw [drawRows, ih, List.length_cons, displayRow_setIfInBounds _ _ _ _ hq]
    by_cases hqy : q = y
    · subst hqy
      rw [if_neg (by omega), if_pos rfl, if_pos (by omega)]
      simp
    · by_cases hr : y + 1 ≤ q ∧ q < y + 1 + bs.length
      · rw [if_pos hr, if_neg hqy, if_pos (by omega), show q - y = (q - (y + 1)) + 1 by omega,
          List.getD_cons_succ]
      · rw [if_neg hr, if_neg hqy, if_neg (by omega)]

/-- Outside the grid there is no pixel. -/
theorem State.pixel_outside (s : State) {x y : Nat} (h : 64 ≤ x ∨ 32 ≤ y) : s.pixel x y = false := by
  unfold State.pixel displayRow
  rcases h with h | h
  · simp [BitVec.getMsbD, h]
  · rw [Vector.getElem?_eq_none (by omega)]
    simp

/-! ## The tick (60_exceptions.md R212) -/

/-- One tick is `tickBy 1`. -/
theorem tickTimerBy_one (t : Byte) : tickTimerBy 1 t = tickTimer t := by
  unfold tickTimerBy tickTimer
  split
  · rfl
  · next h =>
    have : t.toNat ≠ 0 := fun e => h (BitVec.eq_of_toNat_eq (by simpa using e))
    apply BitVec.eq_of_toNat_eq
    have := t.isLt
    simp [BitVec.toNat_sub]
    omega

/-- A timer after n ticks: down by n, stopping at zero. -/
theorem toNat_tickTimerBy (n : Nat) (t : Byte) : (tickTimerBy n t).toNat = t.toNat - n := by
  unfold tickTimerBy
  split
  · next h => subst h; simp
  · have := t.isLt
    rw [BitVec.toNat_ofNat, Nat.mod_eq_of_lt (by omega)]

/-! ## The fetch (20_memory.md R52) -/

/-- The fetch answers a word exactly when PC and PC + 1 are cells. -/
theorem fetch_ok_iff {s : State} {w : Word} :
    fetch s = .ok w ↔ s.pc.toNat + 1 < Config.memSize ∧
      w = wordOfBytes (s.readByte s.pc.toNat) (s.readByte (s.pc.toNat + 1)) := by
  unfold fetch
  split
  · next h => constructor
              · intro e; cases e
              · intro e; omega
  · next h =>
    constructor
    · intro e; cases e; exact ⟨by omega, rfl⟩
    · rintro ⟨-, rfl⟩; rfl

/-- The fetch fails with the first of PC, PC + 1 that is no cell. -/
theorem fetch_error_iff {s : State} {a : Nat} :
    fetch s = .error a ↔ Config.memSize ≤ s.pc.toNat + 1 ∧ a = max s.pc.toNat Config.memSize := by
  unfold fetch
  split
  · next h =>
    constructor
    · intro e
      injection e with e
      refine ⟨h, ?_⟩
      split at e <;> omega
    · rintro ⟨-, rfl⟩
      congr 1
      split <;> omega
  · next h =>
    constructor
    · intro e; cases e
    · intro e; omega

/-! ## exec -/

/-- Every instruction answers a next state, in every state. -/
theorem exec_isNext (i : Instr) (s : State) : ∃ t, exec i s = .next t := by
  cases i <;> exact ⟨_, rfl⟩

/-- Every step call answers a next state. -/
theorem stepCall_isNext (s : State) : ∃ t, stepCall s = .next t := by
  unfold stepCall
  split
  · exact ⟨_, rfl⟩
  · split
    · exact ⟨_, rfl⟩
    · split
      · exact ⟨_, rfl⟩
      · split
        · exact exec_isNext _ s
        · exact ⟨_, rfl⟩

end Sys2Proof.Machine
end

