-- ==== Sys2Proof/Laws/PerInstr.lean ====
section
/-! SUPPORT. Statements for all instructions, one lemma per constructor. `EncodeClass`: the word of an
instruction has the class nibble that opcode_table.json's match column gives its row (30_encoding.md
R73). -/

namespace Sys2Proof.Laws.EncodeClass

/-- The class nibble of each row of opcode_table.json. -/
def classOf : Instr → BitVec 4
  | .sys _ | .cls | .ret => 0x0
  | .jp _ => 0x1
  | .call _ => 0x2
  | .seImm _ _ => 0x3
  | .sneImm _ _ => 0x4
  | .seReg _ _ _ => 0x5
  | .ldImm _ _ => 0x6
  | .addImm _ _ => 0x7
  | .ldReg _ _ | .orReg _ _ | .andReg _ _ | .xorReg _ _ | .addReg _ _ | .sub _ _ | .shr _ _
  | .subn _ _ | .shl _ _ => 0x8
  | .sneReg _ _ _ => 0x9
  | .ldI _ => 0xA
  | .jpV0 _ => 0xB
  | .rnd _ _ => 0xC
  | .drw _ _ _ => 0xD
  | .skp _ | .sknp _ => 0xE
  | .ldFromDt _ | .waitKey _ | .ldDt _ | .ldSt _ | .addI _ | .ldFont _ | .bcd _ | .store _
  | .load _ => 0xF

/-- The word of `i` has its row's class nibble. -/
def Statement (i : Instr) : Prop := fieldC (encode i) = classOf i

theorem sys (nnn : Addr12) : Statement (.sys nnn) := fieldC_encodeNNN _ _
theorem cls : Statement .cls := by unfold Statement; decide
theorem ret : Statement .ret := by unfold Statement; decide
theorem jp (nnn : Addr12) : Statement (.jp nnn) := fieldC_encodeNNN _ _
theorem call (nnn : Addr12) : Statement (.call nnn) := fieldC_encodeNNN _ _
theorem seImm (x : Reg) (nn : Byte) : Statement (.seImm x nn) := fieldC_encodeXNN _ _ _
theorem sneImm (x : Reg) (nn : Byte) : Statement (.sneImm x nn) := fieldC_encodeXNN _ _ _
theorem seReg (x y : Reg) (n : BitVec 4) : Statement (.seReg x y n) := fieldC_encodeXYN _ _ _ _
theorem ldImm (x : Reg) (nn : Byte) : Statement (.ldImm x nn) := fieldC_encodeXNN _ _ _
theorem addImm (x : Reg) (nn : Byte) : Statement (.addImm x nn) := fieldC_encodeXNN _ _ _
theorem ldReg (x y : Reg) : Statement (.ldReg x y) := fieldC_encodeXYN _ _ _ _
theorem orReg (x y : Reg) : Statement (.orReg x y) := fieldC_encodeXYN _ _ _ _
theorem andReg (x y : Reg) : Statement (.andReg x y) := fieldC_encodeXYN _ _ _ _
theorem xorReg (x y : Reg) : Statement (.xorReg x y) := fieldC_encodeXYN _ _ _ _
theorem addReg (x y : Reg) : Statement (.addReg x y) := fieldC_encodeXYN _ _ _ _
theorem sub (x y : Reg) : Statement (.sub x y) := fieldC_encodeXYN _ _ _ _
theorem shr (x y : Reg) : Statement (.shr x y) := fieldC_encodeXYN _ _ _ _
theorem subn (x y : Reg) : Statement (.subn x y) := fieldC_encodeXYN _ _ _ _
theorem shl (x y : Reg) : Statement (.shl x y) := fieldC_encodeXYN _ _ _ _
theorem sneReg (x y : Reg) (n : BitVec 4) : Statement (.sneReg x y n) := fieldC_encodeXYN _ _ _ _
theorem ldI (nnn : Addr12) : Statement (.ldI nnn) := fieldC_encodeNNN _ _
theorem jpV0 (nnn : Addr12) : Statement (.jpV0 nnn) := fieldC_encodeNNN _ _
theorem rnd (x : Reg) (nn : Byte) : Statement (.rnd x nn) := fieldC_encodeXNN _ _ _
theorem drw (x y : Reg) (n : BitVec 4) : Statement (.drw x y n) := fieldC_encodeXYN _ _ _ _
theorem skp (x : Reg) : Statement (.skp x) := fieldC_encodeXNN _ _ _
theorem sknp (x : Reg) : Statement (.sknp x) := fieldC_encodeXNN _ _ _
theorem ldFromDt (x : Reg) : Statement (.ldFromDt x) := fieldC_encodeXNN _ _ _
theorem waitKey (x : Reg) : Statement (.waitKey x) := fieldC_encodeXNN _ _ _
theorem ldDt (x : Reg) : Statement (.ldDt x) := fieldC_encodeXNN _ _ _
theorem ldSt (x : Reg) : Statement (.ldSt x) := fieldC_encodeXNN _ _ _
theorem addI (x : Reg) : Statement (.addI x) := fieldC_encodeXNN _ _ _
theorem ldFont (x : Reg) : Statement (.ldFont x) := fieldC_encodeXNN _ _ _
theorem bcd (x : Reg) : Statement (.bcd x) := fieldC_encodeXNN _ _ _
theorem store (x : Reg) : Statement (.store x) := fieldC_encodeXNN _ _ _
theorem load (x : Reg) : Statement (.load x) := fieldC_encodeXNN _ _ _

end Sys2Proof.Laws.EncodeClass
end

