-- ==== Sys2Proof/Tests/Slice0.lean ====
section
/-! SUPPORT. Tests of the model, each expected result from spec/: the well-formedness smoke test, one word
written out bit by bit for every constructor (opcode_table.json, 30_encoding.md R70 to R78), one step per
instruction (the vectors of 95_test_vectors.md, worked by hand from the rules), the driver's calls, and for
every statement of Obligations.lean with hypotheses a state and operands that meet them. -/

namespace Sys2Proof.Tests

open Sys2Proof.Machine

/-! ## Well-formedness (30_encoding.md R75) -/

theorem test_sys_0E0_ill_formed : ¬ (Instr.sys 0x0E0).WellFormed := by decide
theorem test_sys_0EE_ill_formed : ¬ (Instr.sys 0x0EE).WellFormed := by decide
theorem test_sys_neighbours_well_formed :
    (Instr.sys 0x1E0).WellFormed ∧ (Instr.sys 0x0EF).WellFormed ∧ (Instr.sys 0).WellFormed := by decide

/-! ## One word per constructor: the class nibble, then the fields -/

theorem test_decode_sys : decode 0b0000000100100011#16 = .instr (.sys 0x123) := by decide
theorem test_decode_cls : decode 0b0000000011100000#16 = .instr .cls := by decide
theorem test_decode_ret : decode 0b0000000011101110#16 = .instr .ret := by decide
theorem test_decode_jp : decode 0b0001001000110100#16 = .instr (.jp 0x234) := by decide
theorem test_decode_call : decode 0b0010001100000000#16 = .instr (.call 0x300) := by decide
theorem test_decode_seImm : decode 0b0011001101000010#16 = .instr (.seImm 3 0x42) := by decide
theorem test_decode_sneImm : decode 0b0100001101000010#16 = .instr (.sneImm 3 0x42) := by decide
theorem test_decode_seReg : decode 0b0101000100100000#16 = .instr (.seReg 1 2 0) := by decide
theorem test_decode_ldImm : decode 0b0110101001011100#16 = .instr (.ldImm 10 0x5C) := by decide
theorem test_decode_addImm : decode 0b0111101011111111#16 = .instr (.addImm 10 0xFF) := by decide
theorem test_decode_ldReg : decode 0b1000000100100000#16 = .instr (.ldReg 1 2) := by decide
theorem test_decode_orReg : decode 0b1000000100100001#16 = .instr (.orReg 1 2) := by decide
theorem test_decode_andReg : decode 0b1000000100100010#16 = .instr (.andReg 1 2) := by decide
theorem test_decode_xorReg : decode 0b1000000100100011#16 = .instr (.xorReg 1 2) := by decide
theorem test_decode_addReg : decode 0b1000111100010100#16 = .instr (.addReg 15 1) := by decide
theorem test_decode_sub : decode 0b1000000100100101#16 = .instr (.sub 1 2) := by decide
theorem test_decode_shr : decode 0b1000000100100110#16 = .instr (.shr 1 2) := by decide
theorem test_decode_subn : decode 0b1000000100100111#16 = .instr (.subn 1 2) := by decide
theorem test_decode_shl : decode 0b1000000100101110#16 = .instr (.shl 1 2) := by decide
theorem test_decode_sneReg : decode 0b1001000100100000#16 = .instr (.sneReg 1 2 0) := by decide
theorem test_decode_ldI : decode 0b1010001000010000#16 = .instr (.ldI 0x210) := by decide
theorem test_decode_jpV0 : decode 0b1011001100000000#16 = .instr (.jpV0 0x300) := by decide
theorem test_decode_rnd : decode 0b1100001100001111#16 = .instr (.rnd 3 0x0F) := by decide
theorem test_decode_drw : decode 0b1101000000010101#16 = .instr (.drw 0 1 5) := by decide
theorem test_decode_skp : decode 0b1110000110011110#16 = .instr (.skp 1) := by decide
theorem test_decode_sknp : decode 0b1110000110100001#16 = .instr (.sknp 1) := by decide
theorem test_decode_ldFromDt : decode 0b1111001100000111#16 = .instr (.ldFromDt 3) := by decide
theorem test_decode_waitKey : decode 0b1111000100001010#16 = .instr (.waitKey 1) := by decide
theorem test_decode_ldDt : decode 0b1111000100010101#16 = .instr (.ldDt 1) := by decide
theorem test_decode_ldSt : decode 0b1111000100011000#16 = .instr (.ldSt 1) := by decide
theorem test_decode_addI : decode 0b1111000100011110#16 = .instr (.addI 1) := by decide
theorem test_decode_ldFont : decode 0b1111000100101001#16 = .instr (.ldFont 1) := by decide
theorem test_decode_bcd : decode 0b1111000100110011#16 = .instr (.bcd 1) := by decide
theorem test_decode_store : decode 0b1111010101010101#16 = .instr (.store 5) := by decide
theorem test_decode_load : decode 0b1111001001100101#16 = .instr (.load 2) := by decide

/-- 95_test_vectors.md 2.1: class 0 matches whole words; 5XYN keeps its nibble (R75, R76). -/
theorem test_decode_edges :
    decode 0x0000#16 = .instr (.sys 0) ∧ decode 0x01E0#16 = .instr (.sys 0x1E0) ∧
      decode 0x00EF#16 = .instr (.sys 0x0EF) ∧ decode 0x5121#16 = .instr (.seReg 1 2 1) := by decide
/-- 95_test_vectors.md 2.1: the words of no instruction. -/
theorem test_decode_unknown :
    decode 0x8128#16 = .unknown 0x8128 ∧ decode 0x812F#16 = .unknown 0x812F ∧
      decode 0xE19F#16 = .unknown 0xE19F ∧ decode 0xF100#16 = .unknown 0xF100 ∧
      decode 0xFFFF#16 = .unknown 0xFFFF := by decide
/-- The table's numbering is the word's; a word of no row gives none. -/
theorem test_decodeTableWord :
    decodeTableWord 16 0xF133 = some (.bcd 1) ∧ decodeTableWord 16 0x8128 = none := by decide

/-! ## One step of each instruction (95_test_vectors.md 2.2 to 2.8) -/

/-- A loaded machine right after reset, its driver about to call step with no key held. -/
def base : State := { State.reset with loaded := true, loadOpen := false, host := [.step 0 0] }

/-- `base` with the keys and the random byte of the coming step. -/
def baseWith (k : Keys) (r : Byte) : State := { base with host := [.step k r] }

/-- `s` with bytes placed in memory. -/
def put (s : State) (a : Nat) (bs : List Byte) : State := s.setMem (Memory.writeList s.mem a bs)

/-- `s` with other parameters. -/
def choose (p : Params) (s : State) : State := { s with params := p }

/-- The step that runs the word `w` at PC answers a next state that meets `p`. -/
def ran (s : State) (w : Nat) (p : State → Bool) : Bool :=
  match step (s.withFetchWord 16 w) with
  | .next t => p t
  | _ => false

/-- The step ends in the latched fault `r`, PC where it was. -/
def faulted (s : State) (w : Nat) (r : FaultRecord) : Bool :=
  ran s w fun t => t.fault == some r && t.status == some (.fault r) && t.pc == s.pc

theorem test_sys : ran base 0x0123 (fun t => t.pc == 0x202 && t.status == some .ok) = true := by decide
theorem test_unknown :
    ran (base.setV 1 0x10) 0xE19F (fun t => t.pc == 0x202 && t.fault == none) = true := by decide
theorem test_cls :
    ran ((base.setDisp (Vector.replicate 32 0xFF)).setV 15 7) 0x00E0
      (fun t => t.disp == Vector.replicate 32 0 && t.getV 15 == 7) = true := by decide
theorem test_ret :
    ran ((base.setPc 0x300).setStack [0x202]) 0x00EE (fun t => t.pc == 0x202 && t.stack == []) = true := by
  decide
theorem test_ret_underflow :
    faulted (base.setPc 0x300) 0x00EE ⟨.stackUnderflow, 0x300, some 0x00EE, none, none⟩ = true := by decide
theorem test_jp : ran base 0x1234 (fun t => t.pc == 0x234) = true := by decide
theorem test_jp_odd : ran base 0x1201 (fun t => t.pc == 0x201) = true := by decide
theorem test_call : ran base 0x2300 (fun t => t.pc == 0x300 && t.stack == [0x202]) = true := by decide
theorem test_call_overflow :
    faulted (choose { Params.default with stackDepth := some 2 } (base.setStack [0x202, 0x402])) 0x2500
      ⟨.stackOverflow, 0x200, some 0x2500, none, none⟩ = true := by decide
theorem test_seImm : ran (base.setV 3 0x42) 0x3342 (fun t => t.pc == 0x204) = true := by decide
theorem test_seImm_not : ran (base.setV 3 0x41) 0x3342 (fun t => t.pc == 0x202) = true := by decide
theorem test_sneImm : ran (base.setV 3 0x41) 0x4342 (fun t => t.pc == 0x204) = true := by decide
theorem test_sneImm_not : ran (base.setV 3 0x42) 0x4342 (fun t => t.pc == 0x202) = true := by decide
theorem test_seReg : ran ((base.setV 1 7).setV 2 7) 0x5121 (fun t => t.pc == 0x204) = true := by decide
theorem test_seReg_refused :
    faulted (choose { Params.default with lowNibble := .refuse } base) 0x5121
      ⟨.decodeRefused, 0x200, some 0x5121, none, none⟩ = true := by decide
theorem test_sneReg : ran ((base.setV 1 7).setV 2 8) 0x9120 (fun t => t.pc == 0x204) = true := by decide
theorem test_sneReg_not : ran ((base.setV 1 7).setV 2 7) 0x9120 (fun t => t.pc == 0x202) = true := by decide
theorem test_jpV0 : ran (base.setV 0 0x10) 0xB300 (fun t => t.pc == 0x310) = true := by decide
theorem test_jpV0_high : ran (base.setV 0 0xFF) 0xBFFF (fun t => t.pc == 0x10FE) = true := by decide

theorem test_ldImm : ran base 0x6A5C (fun t => t.getV 10 == 0x5C) = true := by decide
theorem test_addImm_wraps :
    ran (base.setV 1 0xFF) 0x7101 (fun t => t.getV 1 == 0 && t.getV 15 == 0) = true := by decide
theorem test_ldReg : ran (base.setV 2 0x33) 0x8120 (fun t => t.getV 1 == 0x33) = true := by decide
theorem test_orReg :
    ran (((base.setV 1 0xF0).setV 2 0x0F).setV 15 1) 0x8121
      (fun t => t.getV 1 == 0xFF && t.getV 15 == 1) = true := by decide
theorem test_andReg : ran ((base.setV 1 0xF0).setV 2 0x3C) 0x8122 (fun t => t.getV 1 == 0x30) = true := by
  decide
theorem test_xorReg : ran ((base.setV 1 0xFF).setV 2 0x0F) 0x8123 (fun t => t.getV 1 == 0xF0) = true := by
  decide
theorem test_addReg_carry :
    ran ((base.setV 1 0x80).setV 2 0x80) 0x8124 (fun t => t.getV 1 == 0 && t.getV 15 == 1) = true := by decide
theorem test_addReg_flag_wins :
    ran ((base.setV 15 0xFF).setV 1 2) 0x8F14 (fun t => t.getV 15 == 1 && t.getV 1 == 2) = true := by decide
theorem test_sub_borrow :
    ran ((base.setV 1 3).setV 2 5) 0x8125 (fun t => t.getV 1 == 0xFE && t.getV 15 == 0) = true := by decide
theorem test_sub_equal :
    ran ((base.setV 1 9).setV 2 9) 0x8125 (fun t => t.getV 1 == 0 && t.getV 15 == 1) = true := by decide
theorem test_shr :
    ran ((base.setV 1 5).setV 2 0xAA) 0x8126 (fun t => t.getV 1 == 2 && t.getV 15 == 1) = true := by decide
theorem test_shr_flag_wins : ran (base.setV 15 2) 0x8F06 (fun t => t.getV 15 == 0) = true := by decide
theorem test_subn :
    ran ((base.setV 1 3).setV 2 5) 0x8127 (fun t => t.getV 1 == 2 && t.getV 15 == 1) = true := by decide
theorem test_subn_borrow :
    ran ((base.setV 1 5).setV 2 3) 0x8127 (fun t => t.getV 1 == 0xFE && t.getV 15 == 0) = true := by decide
theorem test_shl :
    ran (base.setV 1 0x81) 0x812E (fun t => t.getV 1 == 2 && t.getV 15 == 1) = true := by decide
theorem test_shl_flag_wins : ran (base.setV 15 0x81) 0x8FFE (fun t => t.getV 15 == 1) = true := by decide
theorem test_rnd : ran (baseWith 0 0xAB) 0xC30F (fun t => t.getV 3 == 0x0B) = true := by decide

theorem test_ldI : ran base 0xA123 (fun t => t.i == 0x123) = true := by decide
theorem test_addI_flag :
    ran ((base.setI 0xFFE).setV 1 2) 0xF11E (fun t => t.i == 0x1000 && t.getV 15 == 1) = true := by decide
theorem test_addI_wraps :
    ran ((base.setI 0xFFFF).setV 1 2) 0xF11E (fun t => t.i == 1 && t.getV 15 == 1) = true := by decide
theorem test_ldFont : ran (base.setV 1 0x0A) 0xF129 (fun t => t.i == 0x32) = true := by decide
theorem test_ldFont_unmasked : ran (base.setV 1 0xFF) 0xF129 (fun t => t.i == 0x4FB) = true := by decide
theorem test_bcd :
    ran ((base.setV 1 0xFE).setI 0x300) 0xF133
      (fun t => Memory.readList t.mem 0x300 3 == [2, 5, 4] && t.i == 0x300) = true := by decide
theorem test_bcd_past_memory :
    faulted (base.setI 0xFFD) 0xF133 ⟨.writeBounds, 0x200, some 0xF133, some 0xFFF, none⟩ = true := by decide
theorem test_store :
    ran ((((base.setV 0 0x11).setV 1 0x22).setV 2 0x33).setI 0x210) 0xF255
      (fun t => Memory.readList t.mem 0x210 4 == [0x11, 0x22, 0x33, 0] && t.i == 0x210) = true := by decide
theorem test_store_font :
    faulted (base.setI 0x040) 0xF055 ⟨.fontWrite, 0x200, some 0xF055, some 0x040, none⟩ = true := by decide
theorem test_load_font :
    ran base 0xF465 (fun t => t.v.toList.take 6 == [0xF0, 0x90, 0x90, 0x90, 0xF0, 0]) = true := by decide
theorem test_load_past_memory :
    faulted (base.setI 0xFFE) 0xF165 ⟨.readBounds, 0x200, some 0xF165, some 0xFFF, none⟩ = true := by decide

/-- Glyph 0 at (0, 0): the rows F0 90 90 90 F0 on columns 0 to 3. -/
theorem test_drw_glyph :
    ran base 0xD015 (fun t =>
      t.disp.toList.take 6 == [0xF0#8 ++ 0#56, 0x90#8 ++ 0#56, 0x90#8 ++ 0#56, 0x90#8 ++ 0#56,
        0xF0#8 ++ 0#56, 0#64] && t.pixel 0 1 && !t.pixel 1 1 && t.getV 15 == 0) = true := by decide
theorem test_drw_edge_faults :
    faulted (choose { Params.default with drawEdge := .fault }
        (put ((base.setV 0 60).setI 0x300) 0x300 [0xFF])) 0xD011
      ⟨.drawEdge, 0x200, some 0xD011, none, some (.point 60 0)⟩ = true := by decide

theorem test_skp : ran ((baseWith 0b100000 0).setV 1 5) 0xE19E (fun t => t.pc == 0x204) = true := by decide
theorem test_skp_index :
    faulted (base.setV 1 0x10) 0xE19E ⟨.keyIndex, 0x200, some 0xE19E, none, some (.key 0x10)⟩ = true := by
  decide
theorem test_sknp : ran (base.setV 1 5) 0xE1A1 (fun t => t.pc == 0x204) = true := by decide
theorem test_sknp_held :
    ran ((baseWith 0b1100000 0).setV 1 5) 0xE1A1 (fun t => t.pc == 0x202) = true := by decide
theorem test_waitKey :
    ran (baseWith 0b10001000 0) 0xF10A (fun t => t.getV 1 == 3 && t.pc == 0x202) = true := by decide
theorem test_waitKey_waits :
    ran base 0xF10A (fun t => t.status == some .waiting && t.pc == 0x200) = true := by decide
theorem test_ldFromDt : ran (base.setDt 0x3C) 0xF307 (fun t => t.getV 3 == 0x3C) = true := by decide
theorem test_ldDt : ran (base.setV 1 5) 0xF115 (fun t => t.dt == 5 && t.events == []) = true := by decide
theorem test_ldSt :
    ran (base.setV 1 3) 0xF118 (fun t => t.st == 3 && t.events.length == 1) = true := by decide
theorem test_ldSt_running :
    ran ((base.setV 1 3).setSt 2) 0xF118 (fun t => t.st == 3 && t.events == []) = true := by decide

/-! ## The driver's calls (95_test_vectors.md 2.7, 2.8) -/

/-- The next call answers a next state that meets `p`. -/
def served (s : State) (p : State → Bool) : Bool :=
  match step s with
  | .next t => p t
  | _ => false

theorem test_tick :
    served ({ base with host := [.tick] }.setDt 2) (fun t => t.dt == 1 && t.st == 0) = true := by decide
theorem test_step_not_loaded :
    served { State.reset with host := [.step 0 0] }
      (fun t => t.status == some .notLoaded && t.pc == 0x200) = true := by decide
theorem test_load_then_stored :
    served { State.reset with host := [.load (some [0x60, 0x05, 0x70, 0x03])] }
      (fun t => t.loaded && t.status == some .loadOk &&
        Memory.readList t.mem 0x200 5 == [0x60, 0x05, 0x70, 0x03, 0]) = true := by decide
theorem test_load_error :
    served { State.reset with host := [.load none] }
      (fun t => !t.loaded && t.status == some .loadError) = true := by decide
theorem test_load_out_of_turn :
    step { base with host := [.load (some [])] } = .refused .loadOutOfTurn := rfl
/-- A reset opens the turn of a load, a tick keeps it, a step closes it (60_exceptions.md R220). -/
theorem test_load_turn :
    served { base with host := [.reset] } (fun t => t.loadOpen) = true ∧
      served { State.reset with host := [.tick] } (fun t => t.loadOpen) = true ∧
      served { State.reset with host := [.step 0 0] } (fun t => !t.loadOpen) = true := by decide
theorem test_fetch_bounds :
    served (base.setPc 0xFFE)
      (fun t => t.fault == some ⟨.fetchBounds, 0xFFE, none, some 0xFFF, none⟩) = true := by decide
/-- The last fetchable word is at 0xFFD, 0xFFE. -/
theorem test_last_word : ran (base.setPc 0xFFD) 0x1200 (fun t => t.pc == 0x200) = true := by decide
theorem test_reset_clears :
    served { (base.setPc 0x300) with fault := some ⟨.stackUnderflow, 0x300, some 0x00EE, none, none⟩, host := [.reset] }
      (fun t => t.fault == none && !t.loaded && t.pc == 0x200) = true := by decide
theorem test_font :
    Memory.readList State.reset.mem 0 5 = [0xF0, 0x90, 0x90, 0x90, 0xF0] ∧
      Memory.readList State.reset.mem 0x4B 6 = [0xF0, 0x80, 0xF0, 0x80, 0x80, 0] := by decide

/-! ## The hypotheses of the statements can be met, each clause at a boundary -/

/-- A sprite of one row with its left four bits set, at (60, 0): it reaches column 63 and no further. -/
def leftSprite : State := put ((base.setV 0 60).setI 0x300) 0x300 [0xF0]

/-- The parameters with DRAW_EDGE = fault. -/
def edgeFaults : Params := { Params.default with drawEdge := .fault }

/-- `base` with no call queued. -/
def idle : State := { base with host := [] }

theorem witness_StepRunsDecodedInstruction :
    (base.fault = none ∧ base.loaded = true ∧ fetch base = .ok 0x0000 ∧
      decode 0x0000 = .instr (.sys 0) ∧ base.host = .step 0 0 :: []) ∧
    (idle.fault = none ∧ idle.loaded = true ∧ fetch idle = .ok 0x0000 ∧ idle.host = []) :=
  ⟨⟨rfl, rfl, rfl, by decide, rfl⟩, rfl, rfl, rfl, rfl⟩

/-- The step clauses are met on an unloaded machine, at an unfetchable PC and on an unknown word too. -/
theorem witness_StepRunsDecodedInstruction_elsewhere :
    (State.reset.loaded = false ∧ State.reset.host = []) ∧
    ((base.setPc 0xFFE).host = .step 0 0 :: [] ∧ fetch (base.setPc 0xFFE) = .error 0xFFF) ∧
    ((put base 0x200 [0x81, 0x28]).host = .step 0 0 :: [] ∧ fetch (put base 0x200 [0x81, 0x28]) = .ok 0x8128 ∧
      decode 0x8128 = .unknown 0x8128) :=
  ⟨⟨rfl, rfl⟩, ⟨rfl, rfl⟩, rfl, rfl, by decide⟩

theorem witness_StepServesTickLoadReset :
    (({ base with host := [.tick] } : State).host = .tick :: [] ∧ ∃ t, step { base with host := [.tick] } = .next t) ∧
    (({ State.reset with host := [.load none] } : State).host = .load none :: [] ∧
      ∃ t, step { State.reset with host := [.load none] } = .next t) ∧
    (({ base with host := [.reset] } : State).host = .reset :: [] ∧
      ∃ t, step { base with host := [.reset] } = .next t) ∧
    (base.host = .step 0 0 :: [] ∧ ∃ t, step base = .next t) ∧
    (idle.host = [] ∧ ∃ t, step idle = .next t) :=
  ⟨⟨rfl, _, rfl⟩, ⟨rfl, _, rfl⟩, ⟨rfl, _, rfl⟩, ⟨rfl, _, rfl⟩, rfl, _, rfl⟩

theorem witness_DecodeAndEncodeAgree :
    ((Instr.sys 0xFFF).WellFormed ∧ encode (.sys 0xFFF) = 0x0FFF ∧ decode 0x0FFF = .instr (.sys 0xFFF)) ∧
    ((Instr.load 15).WellFormed ∧ encode (.load 15) = 0xFF65 ∧ decode 0xFF65 = .instr (.load 15)) := by
  decide

theorem witness_NoOpWordsOnlyAdvancePc :
    (base.fault = none ∧ base.loaded = true ∧ fetch base = .ok 0x0000 ∧ NoOpWord 0x0000) ∧
    NoOpWord 0x00EF ∧ NoOpWord 0x8128 ∧ NoOpWord 0x8FFF ∧ NoOpWord 0xE19F ∧ NoOpWord 0xFFFF ∧
    (fetch (put base 0x200 [0xFF, 0xFF]) = .ok 0xFFFF) := by
  unfold NoOpWord; exact ⟨⟨rfl, rfl, rfl, by decide⟩, by decide, by decide, by decide, by decide, by decide, rfl⟩

theorem witness_UnknownWordsAreTheListedOnes :
    decode 0x8128 = .unknown 0x8128 ∧ NoOpWord 0x8128 ∧ fieldC 0x8128 ≠ 0 := by
  unfold NoOpWord; decide

theorem witness_FetchReadsBigEndianWord :
    fetch ((put base 0xFFD [0x12, 0x34]).setPc 0xFFD) = .ok 0x1234 ∧ (0xFFD#16).toNat + 1 < 4095 := ⟨rfl, by decide⟩

theorem witness_FetchPastMemoryFaults :
    (base.setPc 0xFFE).fault = none ∧ (base.setPc 0xFFE).loaded = true ∧
      4095 ≤ (base.setPc 0xFFE).pc.toNat + 1 ∧ 4095 ≤ (base.setPc 0xFFFF).pc.toNat + 1 := by decide

theorem witness_JumpGoesToTarget : 0xFFE ≤ (0xFFE#12).toNat := by decide

theorem witness_JumpAddsV0 :
    0xFFE ≤ (0xFFE#12).toNat + (base.getV 0).toNat ∧
      0xFFE ≤ (0xFFF#12).toNat + ((base.setV 0 0xFF).getV 0).toNat := by decide

theorem witness_CallPushesReturnAddress :
    (∀ d, base.params.stackDepth = some d → base.stack.length < d) ∧
    (∀ d, (choose { Params.default with stackDepth := some 2 } (base.setStack [0x202])).params.stackDepth = some d →
      (choose { Params.default with stackDepth := some 2 } (base.setStack [0x202])).stack.length < d) :=
  ⟨fun _ h => (nomatch h), fun _ h => by cases h; decide⟩

theorem witness_ReturnPopsIntoPc : (base.setStack [0x202, 0x402]).stack = [0x202] ++ [0x402] := rfl

theorem witness_StackBoundsFault :
    base.stack = [] ∧
    (choose { Params.default with stackDepth := some 1 } (base.setStack [0x202])).params.stackDepth = some 1 ∧
    (choose { Params.default with stackDepth := some 1 } (base.setStack [0x202])).stack.length = 1 :=
  ⟨rfl, rfl, rfl⟩

theorem witness_NestedCallsReturnInOrder :
    [0x300#12, 0x400#12] ≠ [] ∧
    (∀ d, base.params.stackDepth = some d → base.stack.length + [0x300#12, 0x400#12].length ≤ d) ∧
    (∀ d, (choose { Params.default with stackDepth := some 2 } base).params.stackDepth = some d →
      (choose { Params.default with stackDepth := some 2 } base).stack.length + [0x300#12, 0x400#12].length ≤ d) :=
  ⟨by decide, fun _ h => (nomatch h), fun _ h => by cases h; decide⟩

theorem witness_SkipsOnRegisters :
    (base.params.lowNibble = .ignore ∨ (15 : BitVec 4) = 0) ∧
    ((choose { Params.default with lowNibble := .refuse } base).params.lowNibble = .ignore ∨ (0 : BitVec 4) = 0) := by
  decide

theorem witness_RefusedLowNibbleFaults :
    (choose { Params.default with lowNibble := .refuse } base).params.lowNibble = .refuse ∧ (1 : BitVec 4) ≠ 0 := by
  decide

theorem witness_RandomIsMaskedByte : (0x0F : Byte) &&& ~~~(0x0F : Byte) = 0 := by decide

theorem witness_LoadIndexSetsI :
    (0xFFF#12).toNat = 0xFFF ∧ (Instr.drw 0 0 1 = .drw 0 0 1 ∧ (1 : BitVec 4) ≠ 0) := by decide

theorem witness_FontAddressIsFiveTimesVx :
    ((base.setV 1 0xF).getV 1).toNat ≤ 0xF ∧ 0x10 ≤ ((base.setV 1 0x10).getV 1).toNat ∧
      0x10 ≤ ((base.setV 1 0xFF).getV 1).toNat := by decide

theorem witness_BcdStoresDecimalDigits :
    (Memory.wf base.mem = true ∧ 0x50 ≤ (base.setI 0x50).i.toNat ∧ (base.setI 0x50).i.toNat + 2 < 4095) ∧
    (0x50 ≤ (base.setI 0xFFC).i.toNat ∧ (base.setI 0xFFC).i.toNat + 2 < 4095) := by decide

theorem witness_StoreWritesRegisters :
    (Memory.wf base.mem = true ∧ 0x50 ≤ (base.setI 0x50).i.toNat ∧
      (base.setI 0x50).i.toNat + (0 : Reg).val < 4095 ∧ (0 : Reg) ≤ 0) ∧
    (0x50 ≤ (base.setI 0xFEF).i.toNat ∧ (base.setI 0xFEF).i.toNat + (15 : Reg).val < 4095 ∧ (15 : Reg) ≤ 15) := by
  decide

theorem witness_StoresOutsideFault :
    ((Instr.bcd 1 = .bcd 1 ∧ 3 = 3) ∧ (base.setI 0x4F).i.toNat < 0x50 ∧
      0x50 ≤ (base.setI 0xFFD).i.toNat ∧ 4095 < (base.setI 0xFFD).i.toNat + 3) ∧
    ((Instr.store 0 = .store 0 ∧ 1 = (0 : Reg).val + 1) ∧ base.i.toNat < 0x50 ∧
      0x50 ≤ (base.setI 0xFFF).i.toNat ∧ 4095 < (base.setI 0xFFF).i.toNat + 1) := by decide

/-- FX55 at 0x208 stores where the next step fetches, as in the spec's program P4. -/
theorem witness_StoredBytesAreFetched :
    Memory.wf base.mem = true ∧ 0x50 ≤ ((base.setPc 0x208).setI 0x20A).i.toNat ∧
      ((base.setPc 0x208).setI 0x20A).i.toNat + (1 : Reg).val < 4095 ∧ (0 : Reg) < 1 ∧
      (1 : Reg).val = (0 : Reg).val + 1 ∧
      ∃ t, exec (.store 1) ((base.setPc 0x208).setI 0x20A) = .next t ∧
        t.pc.toNat = ((base.setPc 0x208).setI 0x20A).i.toNat + (0 : Reg).val :=
  ⟨by decide, by decide, by decide, by decide, by decide, _, rfl, by decide⟩

theorem witness_LoadReadsRegisters :
    (base.setI 0xFFE).i.toNat + (0 : Reg).val < 4095 ∧ base.i.toNat + (15 : Reg).val < 4095 ∧ (0 : Reg) ≤ 0 := by
  decide

theorem witness_LoadOutsideFaults :
    4095 ≤ (base.setI 0xFFE).i.toNat + (1 : Reg).val ∧ 4095 ≤ (base.setI 0xFFF).i.toNat + (0 : Reg).val := by
  decide

theorem leftSprite_stays_inside :
    ¬ leftSprite.spriteLeavesGrid (1 : BitVec 4).toNat (leftSprite.getV 0).toNat (leftSprite.getV 1).toNat := by
  have x0 : (leftSprite.getV 0).toNat = 60 := by decide
  have y0 : (leftSprite.getV 1).toNat = 0 := by decide
  have bits : ∀ c < 8, (leftSprite.readByte leftSprite.i.toNat).getLsbD (7 - c) = true → c < 4 := by decide
  rw [x0, y0]
  rintro ⟨x, y, ⟨h1, h2, h3, h4, hb⟩, ho⟩
  have y1 : y = 0 := by simp at h4; exact h4
  subst y1
  have := bits (x - 60) (by omega) (by simpa using hb)
  omega

theorem witness_DrawTogglesSpritePixels :
    (((1 : BitVec 4) = 0 ∨ (base.setI 0xFFE).i.toNat + (1 : BitVec 4).toNat ≤ 4095) ∧
      (base.setI 0xFFE).params.drawEdge = .clip) ∧
    (((0 : BitVec 4) = 0 ∨ (base.setI 0x1234).i.toNat + (0 : BitVec 4).toNat ≤ 4095)) ∧
    (choose edgeFaults leftSprite).params.drawEdge = .fault ∧
    ¬ (choose edgeFaults leftSprite).spriteLeavesGrid (1 : BitVec 4).toNat
      ((choose edgeFaults leftSprite).getV 0).toNat ((choose edgeFaults leftSprite).getV 1).toNat :=
  ⟨by decide, by decide, rfl, leftSprite_stays_inside⟩

theorem witness_DrawTogglesSpritePixels_bits :
    leftSprite.spriteBit (1 : BitVec 4).toNat (leftSprite.getV 0).toNat (leftSprite.getV 1).toNat 63 0 ∧
    ¬ leftSprite.spriteBit (1 : BitVec 4).toNat (leftSprite.getV 0).toNat (leftSprite.getV 1).toNat 59 0 := by
  unfold State.spriteBit; decide

theorem witness_DrawOutsideMemoryFaults :
    (2 : BitVec 4) ≠ 0 ∧ 4095 < (base.setI 0xFFE).i.toNat + (2 : BitVec 4).toNat ∧
      4095 < (base.setI 0xFFF).i.toNat + (1 : BitVec 4).toNat := by decide

/-- The same row one column further right: its last set bit lies at column 64. -/
theorem witness_DrawOffTheGridFaults :
    ((1 : BitVec 4) = 0 ∨ (choose edgeFaults (leftSprite.setV 0 61)).i.toNat + (1 : BitVec 4).toNat ≤ 4095) ∧
    (choose edgeFaults (leftSprite.setV 0 61)).params.drawEdge = .fault ∧
    (choose edgeFaults (leftSprite.setV 0 61)).spriteLeavesGrid (1 : BitVec 4).toNat
      ((choose edgeFaults (leftSprite.setV 0 61)).getV 0).toNat
      ((choose edgeFaults (leftSprite.setV 0 61)).getV 1).toNat :=
  ⟨by decide, rfl, 64, 0, by unfold State.spriteBit; decide, by decide⟩

theorem witness_DrawTwiceRestoresDisplay :
    ((1 : BitVec 4) = 0 ∨ leftSprite.i.toNat + (1 : BitVec 4).toNat ≤ 4095) ∧
    leftSprite.params.drawEdge = .clip ∧ (0 : Reg) ≠ 0xF ∧ (1 : Reg) ≠ 0xF ∧
    ∃ t u, exec (.drw 0 1 1) leftSprite = .next t ∧ exec (.drw 0 1 1) t = .next u :=
  ⟨by decide, rfl, by decide, by decide, _, _, rfl, rfl⟩

theorem witness_KeySkipsFollowTheKey :
    (base.getV 1).toNat < 16 ∧ ((base.setV 1 15).getV 1).toNat < 16 := by decide

theorem witness_KeyIndexAboveFifteenFaults :
    16 ≤ ((base.setV 1 16).getV 1).toNat ∧ 16 ≤ ((base.setV 1 0xFF).getV 1).toNat := by decide

theorem witness_WaitKeyTakesLowestHeld :
    (15 < 16 ∧ (baseWith 0x8000 0).keys.getLsbD 15 = true ∧
      ∀ j < 15, (baseWith 0x8000 0).keys.getLsbD j = false) ∧
    (0 < 16 ∧ (baseWith 0xFFFF 0).keys.getLsbD 0 = true ∧
      ∀ j < 0, (baseWith 0xFFFF 0).keys.getLsbD j = false) ∧
    (∀ k < 16, base.keys.getLsbD k = false) ∧ (baseWith 0x8000 0).host = .step 0x8000 0 :: [] := by decide

theorem witness_InstructionsEndInOneOfThreeWays :
    (∃ t, exec .cls base = .next t ∧ t.status = some .ok) ∧
    (∃ t, exec (.waitKey 0) base = .next t ∧ t.status = some .waiting) ∧
    (∃ t, exec .ret base = .next t ∧ t.fault ≠ none) :=
  ⟨⟨_, rfl, rfl⟩, ⟨_, rfl, by decide⟩, ⟨_, rfl, by decide⟩⟩

theorem witness_LatchedFaultHalts :
    ({ base with fault := some ⟨.stackUnderflow, 0x200, some 0x00EE, none, none⟩ } : State).fault =
      some ⟨.stackUnderflow, 0x200, some 0x00EE, none, none⟩ := rfl

theorem witness_NotLoadedRefusesToStep : State.reset.fault = none ∧ State.reset.loaded = false := by decide

theorem witness_LoadPlacesImage :
    Memory.wf State.reset.mem = true ∧ State.reset.loadOpen = true ∧
      (List.replicate 0xDFF (0xAA : Byte)).length ≤ 0xDFF ∧ ([] : List Byte).length ≤ 0xDFF ∧
      0xDFF < (List.replicate 0xE00 (0xAA : Byte)).length ∧ base.loadOpen = false :=
  ⟨rfl, rfl, by rw [List.length_replicate], by decide, by rw [List.length_replicate]; decide, rfl⟩

theorem witness_ResetPutsEveryPieceOfState : base.params.resetPolicy = .zero := rfl

/-- S3 of 95_test_vectors.md: the image 12 00. -/
theorem witness_GoodEndKeepsRunning : (put base 0x200 [0x12, 0x00]).goodEnd :=
  ⟨rfl, rfl, 0x1200, 0x200, rfl, by decide, by decide⟩

theorem witness_DisplayChangesOnlyByDrawAndClear :
    (∃ t, exec .cls (base.setDisp (Vector.replicate 32 1)) = .next t ∧
      ∃ x y, t.pixel x y ≠ (base.setDisp (Vector.replicate 32 1)).pixel x y) ∧
    (∃ t, exec (.drw 0 1 1) base = .next t ∧ ∃ x y, t.pixel x y ≠ base.pixel x y) :=
  ⟨⟨_, rfl, 63, 31, by decide⟩, _, rfl, 0, 0, by decide⟩

theorem witness_StackChangesOnlyByCallAndReturn :
    (∃ t, exec (.call 0x300) base = .next t ∧ t.stack ≠ base.stack) ∧
    (∃ t, exec .ret (base.setStack [0x202]) = .next t ∧ t.stack ≠ (base.setStack [0x202]).stack) :=
  ⟨⟨_, rfl, by decide⟩, _, rfl, by decide⟩

theorem witness_MemoryChangesOnlyByStores :
    (∃ t, exec (.bcd 0) ((base.setV 0 1).setI 0x300) = .next t ∧
      ∃ a, t.readByte a ≠ ((base.setV 0 1).setI 0x300).readByte a) ∧
    (∃ t, exec (.store 0) ((base.setV 0 1).setI 0x300) = .next t ∧
      ∃ a, t.readByte a ≠ ((base.setV 0 1).setI 0x300).readByte a) :=
  ⟨⟨_, rfl, 0x302, by decide⟩, _, rfl, 0x300, by decide⟩

theorem witness_VfChangesOnlyByItsWriters :
    (∃ t, exec (.shr 1 1) (base.setV 1 1) = .next t ∧ t.getV 0xF ≠ (base.setV 1 1).getV 0xF) ∧
    (∃ t, exec (.load 0xF) (base.setI 1) = .next t ∧ t.getV 0xF ≠ (base.setI 1).getV 0xF) :=
  ⟨⟨_, rfl, by decide⟩, _, rfl, by decide⟩

theorem witness_IndexAndTimersChangeOnlyByTheirWriters :
    (∃ t, exec (.ldI 0xFFF) base = .next t ∧ t.i ≠ base.i) ∧
    (∃ t, exec (.load 0) (choose { Params.default with incrementsI := true } base) = .next t ∧ t.i ≠ base.i) ∧
    (∃ t, exec (.ldDt 1) (base.setV 1 1) = .next t ∧ t.dt ≠ base.dt) ∧
    (∃ t, exec (.ldSt 1) (base.setV 1 1) = .next t ∧ t.st ≠ base.st ∧ t.events ≠ []) :=
  ⟨⟨_, rfl, by decide⟩, ⟨_, rfl, by decide⟩, ⟨_, rfl, by decide⟩, _, rfl, by decide, by decide⟩

theorem base_inv : base.Inv where
  memory := rfl
  font := rfl
  pc := by decide
  stack _ h := nomatch h
  depth _ h := nomatch h
  fresh h := nomatch h
  record _ h := nomatch h
  returned _ h := nomatch h
  turn h := nomatch h

theorem witness_EveryCallKeepsTheInvariant : base.Inv ∧ ∃ t, step base = .next t := ⟨base_inv, _, rfl⟩

theorem witness_FontIsNeverOverwritten :
    base.Inv ∧ (∃ t, step base = .next t) ∧ 0 < 0x50 ∧ 0x4F < 0x50 := ⟨base_inv, ⟨_, rfl⟩, by decide, by decide⟩

end Sys2Proof.Tests
end

/-! SUPPORT. Control transfer and skips (40_control.md): frames under the updates of State, the ends of an
instruction, one rule for each jump, call, return and skip, and the statements settled with them. -/

namespace Sys2Proof.Machine

/-! ## Frames -/

section Frames

variable {parts parts' : List Part} {s t u : State}

theorem KeepsBut.refl (parts : List Part) (s : State) : KeepsBut parts s s := by
  constructor <;> intros <;> rfl

theorem KeepsBut.trans (h : KeepsBut parts s t) (h' : KeepsBut parts t u) : KeepsBut parts s u where
  regs z hz := (h'.regs z hz).trans (h.regs z hz)
  index hp := (h'.index hp).trans (h.index hp)
  stack hp := (h'.stack hp).trans (h.stack hp)
  delayTimer hp := (h'.delayTimer hp).trans (h.delayTimer hp)
  soundTimer hp := (h'.soundTimer hp).trans (h.soundTimer hp)
  display hp x y := (h'.display hp x y).trans (h.display hp x y)
  memory a ha := (h'.memory a ha).trans (h.memory a ha)
  loaded := h'.loaded.trans h.loaded
  params := h'.params.trans h.params
  host := h'.host.trans h.host
  draws := h'.draws.trans h.draws
  loadOpen := h'.loadOpen.trans h.loadOpen

theorem any_eq_false_of_subset {p : Part → Bool} (hsub : parts ⊆ parts') (h : parts'.any p = false) :
    parts.any p = false :=
  List.any_eq_false.mpr fun q hq => List.any_eq_false.mp h q (hsub hq)

/-- A frame with fewer parts says more. -/
theorem KeepsBut.mono (hsub : parts ⊆ parts') (h : KeepsBut parts s t) : KeepsBut parts' s t :=
  { h with
    regs := fun z hz => h.regs z (any_eq_false_of_subset hsub hz)
    index := fun hp => h.index (mt (@hsub _) hp)
    stack := fun hp => h.stack (mt (@hsub _) hp)
    delayTimer := fun hp => h.delayTimer (mt (@hsub _) hp)
    soundTimer := fun hp => h.soundTimer (mt (@hsub _) hp)
    display := fun hp => h.display (mt (@hsub _) hp)
    memory := fun a ha => h.memory a (any_eq_false_of_subset hsub ha) }

/-- PC lies outside every frame. -/
theorem KeepsBut.setPc (h : KeepsBut parts s t) (w : Word) : KeepsBut parts s (t.setPc w) := { h with }

theorem KeepsBut.setStack (hp : .stack ∈ parts) (h : KeepsBut parts s t) (l : List Word) :
    KeepsBut parts s (t.setStack l) :=
  { h with stack := fun hn => absurd hp hn }

/-- A frame that leaves out only the stack is the full frame when the stack is as before. -/
theorem KeepsBut.of_stack_eq (hst : t.stack = s.stack) (h : KeepsBut [.stack] s t) : KeepsBut [] s t :=
  { h with
    regs := fun z _ => h.regs z rfl
    index := fun _ => h.index (by decide)
    stack := fun _ => hst
    delayTimer := fun _ => h.delayTimer (by decide)
    soundTimer := fun _ => h.soundTimer (by decide)
    display := fun _ => h.display (by decide)
    memory := fun a _ => h.memory a rfl }

/-- An instruction whose updates keep the frame, then `complete`, completes with no event (R200). -/
theorem KeepsBut.completes (h : KeepsBut parts s t) (hf : t.fault = s.fault) :
    Completes parts [] s t.complete where
  status := rfl
  events := rfl
  fault := hf
  keeps := { h with }

/-- An instruction that only moves PC completes with everything else as before. -/
theorem completes_setPc (s : State) (w : Word) : Completes [] [] s (s.setPc w).complete :=
  ((KeepsBut.refl [] s).setPc w).completes rfl

end Frames

/-! ## Jumps (R103, R105) -/

theorem exec_jp (nnn : Addr12) (s : State) : exec (.jp nnn) s = .next (s.setPc (zext16 nnn)).complete := rfl

theorem exec_jpV0 (nnn : Addr12) (s : State) :
    exec (.jpV0 nnn) s = .next (s.setPc (s.offsetTarget nnn)).complete := rfl

@[simp] theorem toNat_zext16 (nnn : Addr12) : (zext16 nnn).toNat = nnn.toNat :=
  BitVec.toNat_setWidth_of_le (by decide)

/-- The target of BNNN stays far below 2^16 (R105). -/
theorem addr_add_byte_le (nnn : Addr12) (b : Byte) : nnn.toNat + b.toNat ≤ 0x10FE := by
  have hn := nnn.isLt
  have hb := b.isLt
  omega

@[simp] theorem State.toNat_offsetTarget (s : State) (nnn : Addr12) :
    (s.offsetTarget nnn).toNat = nnn.toNat + (s.getV 0).toNat := by
  rw [State.offsetTarget, BitVec.toNat_add, toNat_zext16, BitVec.toNat_setWidth_of_le (by decide)]
  exact Nat.mod_eq_of_lt ((addr_add_byte_le nnn (s.getV 0)).trans_lt (by decide))

theorem fetch_fails_of_pc_ge {s : State} (h : 0xFFE ≤ s.pc.toNat) : ∃ a, fetch s = .error a :=
  ⟨_, fetch_error_iff.mpr ⟨Nat.succ_le_succ h, rfl⟩⟩

/-- Settles O10: 1NNN only moves PC, and from 0xFFE on PC + 1 is no cell. -/
theorem jumpGoesToTarget : Obligations.JumpGoesToTarget := by
  intro nnn s
  have hpc : ((s.setPc (zext16 nnn)).complete).pc.toNat = nnn.toNat := toNat_zext16 nnn
  exact ⟨_, exec_jp nnn s, hpc, completes_setPc s _, fun h => fetch_fails_of_pc_ge (hpc ▸ h)⟩

/-- Settles O11: the sum is exact because it stays below 2^16. -/
theorem jumpAddsV0 : Obligations.JumpAddsV0 := by
  intro nnn s
  have hpc : ((s.setPc (s.offsetTarget nnn)).complete).pc.toNat = nnn.toNat + (s.getV 0).toNat :=
    s.toNat_offsetTarget nnn
  exact ⟨_, exec_jpV0 nnn s, hpc, hpc ▸ addr_add_byte_le nnn (s.getV 0), completes_setPc s _,
    fun h => fetch_fails_of_pc_ge (hpc ▸ h)⟩

/-! ## Skips (R107 to R109) -/

theorem exec_seImm (x : Reg) (nn : Byte) (s : State) :
    exec (.seImm x nn) s = .next (s.advance.skipIf (s.getV x == nn)).complete := rfl

theorem exec_sneImm (x : Reg) (nn : Byte) (s : State) :
    exec (.sneImm x nn) s = .next (s.advance.skipIf (s.getV x != nn)).complete := rfl

/-- Where a skip goes (R107). -/
theorem State.pc_skip (s : State) (c : Bool) :
    ((s.advance.skipIf c).complete).pc = if c then s.pc + 4 else s.pc + 2 := by
  cases c
  · simp
  · simp [BitVec.add_assoc]

/-- A skip only moves PC. -/
theorem completes_skip (s : State) (c : Bool) : Completes [] [] s (s.advance.skipIf c).complete :=
  (((KeepsBut.refl [] s).setPc _).setPc _).completes rfl

/-- Settles O16: both are a skip, on VX = NN and on its negation. -/
theorem skipsOnImmediate : Obligations.SkipsOnImmediate := by
  intro x nn s
  refine ⟨⟨_, exec_seImm x nn s, ?_, completes_skip s _⟩, ⟨_, exec_sneImm x nn s, ?_, completes_skip s _⟩⟩
  · simp only [State.pc_skip, beq_iff_eq]
  · simp only [State.pc_skip, bne_iff_ne, ne_eq, ite_not]

/-! ## Calls and returns (R102, R104) -/

theorem State.stackFull_eq_false_iff (s : State) :
    s.stackFull = false ↔ ∀ d, s.params.stackDepth = some d → s.stack.length < d := by
  unfold State.stackFull
  split
  · next h => simp [h]
  · next d h => simp [h]

theorem exec_call_of_room {s : State} (nnn : Addr12) (room : s.stackFull = false) :
    exec (.call nnn) s =
      .next ((s.setStack (s.stack ++ [s.pc + 2])).setPc (zext16 nnn)).complete := by
  change execCall nnn s = _
  simp [execCall, room]

theorem exec_ret_of_stack {s : State} {below : List Word} {top : Word} (h : s.stack = below ++ [top]) :
    exec .ret s = .next ((s.setStack below).setPc top).complete := by
  change execRet s = _
  simp [execRet, h]

/-- Moving PC and the stack, then completing, is the frame of 2NNN and 00EE. -/
theorem completes_setStack_setPc (s : State) (l : List Word) (w : Word) :
    Completes [.stack] [] s ((s.setStack l).setPc w).complete :=
  (((KeepsBut.refl [.stack] s).setStack (by decide) l).setPc w).completes rfl

/-! ## Nested calls (R106) -/

theorem execAll_cons {i : Instr} {s t : State} (h : exec i s = .next t) (is : List Instr) :
    execAll (i :: is) s = execAll is t := by
  simp only [execAll, h]

theorem execAll_append {is : List Instr} {s t : State} (h : execAll is s = .next t) (js : List Instr) :
    execAll (is ++ js) s = execAll js t := by
  induction is generalizing s with
  | nil => cases h; rfl
  | cons i is ih =>
    obtain ⟨u, hu⟩ := exec_isNext i s
    rw [execAll_cons hu] at h
    rw [List.cons_append, execAll_cons hu, ih h]

/-- A call with room, a body that leaves everything but PC as it found it one level deeper, and a return:
PC is the address after the call and everything else, the stack included, is as before the call. -/
theorem call_body_ret_completes {s : State} (nnn : Addr12) {body : List Instr}
    (room : s.stackFull = false)
    (hbody : ∀ u : State, u.params = s.params → u.stack.length = s.stack.length + 1 →
      NextWith (execAll body u) fun v => v.fault = u.fault ∧ KeepsBut [] u v) :
    NextWith (execAll (.call nnn :: (body ++ [.ret])) s) fun t => t.pc = s.pc + 2 ∧ Completes [] [] s t := by
  have hcall := exec_call_of_room nnn room
  have ccall := completes_setStack_setPc s (s.stack ++ [s.pc + 2]) (zext16 nnn)
  obtain ⟨v, hv, vfault, vkeeps⟩ := hbody _ ccall.keeps.params (by simp)
  have vstack : v.stack = s.stack ++ [s.pc + 2] := vkeeps.stack (by decide)
  have hret := exec_ret_of_stack vstack
  have cret := completes_setStack_setPc v s.stack (s.pc + 2)
  have hrun : execAll (.call nnn :: (body ++ [.ret])) s =
      .next ((v.setStack s.stack).setPc (s.pc + 2)).complete := by
    rw [execAll_cons hcall, execAll_append hv, execAll_cons hret, execAll]
  have hkeeps := (ccall.keeps.trans (vkeeps.mono (List.nil_subset [Part.stack]))).trans cret.keeps
  exact ⟨_, hrun, rfl, rfl, rfl, vfault, hkeeps.of_stack_eq rfl⟩

/-- Any calls the stack has room for and as many returns keep everything but PC; with at least one call,
the run ends as one call and its return do. -/
theorem calls_then_returns_keep (targets : List Addr12) (s : State)
    (room : ∀ d, s.params.stackDepth = some d → s.stack.length + targets.length ≤ d) :
    NextWith (execAll (targets.map Instr.call ++ List.replicate targets.length Instr.ret) s) fun t =>
      (t.fault = s.fault ∧ KeepsBut [] s t) ∧ (targets ≠ [] → t.pc = s.pc + 2 ∧ Completes [] [] s t) := by
  induction targets generalizing s with
  | nil => exact ⟨s, rfl, ⟨rfl, .refl [] s⟩, fun h => absurd rfl h⟩
  | cons nnn targets ih =>
    simp only [List.length_cons] at room
    have hroom : s.stackFull = false := s.stackFull_eq_false_iff.mpr fun d hd => by
      have := room d hd
      omega
    obtain ⟨t, ht, hpc, hc⟩ := call_body_ret_completes nnn hroom fun u hparams hlen => by
      obtain ⟨v, hv, hkeep, -⟩ := ih u fun d hd => by
        have := room d (hparams ▸ hd)
        omega
      exact ⟨v, hv, hkeep⟩
    refine ⟨t, ?_, ⟨hc.fault, hc.keeps⟩, fun _ => ⟨hpc, hc⟩⟩
    rw [List.map_cons, List.length_cons, List.replicate_succ', List.cons_append, ← List.append_assoc]
    exact ht

/-- Settles O15, by induction on the list of targets: the inner calls and returns are the body of the
first call. -/
theorem nestedCallsReturnInOrder : Obligations.NestedCallsReturnInOrder := by
  intro targets s hne room
  obtain ⟨t, ht, -, hend⟩ := calls_then_returns_keep targets s room
  exact ⟨t, ht, hend hne⟩

end Sys2Proof.Machine

/-! SUPPORT. Register loads, arithmetic with a flag, shifts and no-op words (41_alu.md): the frame under
register writes, one rule for an instruction that ends in a result and one for a result with a flag, the
values of the flags, the decoder and the step call on no-op words, and the statements settled with them. -/

namespace Sys2Proof.Machine

/-! ## Frames under register writes -/

section Frames

variable {parts : List Part} {s t : State}

/-- A register outside a frame that lists register x is not x. -/
theorem ne_of_coversReg_eq_false {x z : Reg} (hp : .reg x ∈ parts)
    (hz : parts.any (Part.coversReg z) = false) : z ≠ x := by
  rintro rfl
  exact List.any_eq_false.mp hz _ hp (decide_eq_true rfl)

theorem KeepsBut.setV {x : Reg} (hp : .reg x ∈ parts) (h : KeepsBut parts s t) (b : Byte) :
    KeepsBut parts s (t.setV x b) :=
  { h with
    regs := fun z hz => (t.getV_setV_ne b (ne_of_coversReg_eq_false hp hz)).trans (h.regs z hz) }

theorem KeepsBut.setVF {x : Reg} (hx : .reg x ∈ parts) (hf : .reg vF ∈ parts) (h : KeepsBut parts s t)
    (result : Byte) (flag : Bool) : KeepsBut parts s (t.setVF x result flag) :=
  (h.setV hx result).setV hf (flagByte flag)

end Frames

/-! ## A result in VX (R120) -/

/-- An instruction that advances PC and writes one register leaves the result there and nothing else. -/
theorem nextWith_of_setV {i : Instr} {s : State} {x : Reg} {b : Byte}
    (hi : exec i s = .next (s.advance.setV x b).complete) :
    NextWith (exec i s) fun t => t.getV x = b ∧ t.pc = s.pc + 2 ∧ Completes [.reg x] [] s t :=
  ⟨_, hi, s.advance.getV_setV_same x b, rfl,
    (((KeepsBut.refl [.reg x] s).setPc _).setV (by simp) b).completes rfl⟩

theorem exec_ldImm (x : Reg) (nn : Byte) (s : State) :
    exec (.ldImm x nn) s = .next (s.advance.setV x nn).complete := rfl

theorem exec_ldReg (x y : Reg) (s : State) :
    exec (.ldReg x y) s = .next (s.advance.setV x (s.getV y)).complete := rfl

/-- Settles O19: both write one register, 6XNN the operand and 8XY0 the old VY. -/
theorem loadsSetTheRegister : Obligations.LoadsSetTheRegister := fun x y nn s =>
  ⟨nextWith_of_setV (exec_ldImm x nn s), nextWith_of_setV (exec_ldReg x y s)⟩

/-! ## A result in VX and a flag in VF, written last (R22, R23) -/

/-- VF holds the flag, X = 0xF included. -/
@[simp] theorem State.getV_setVF_flag (s : State) (x : Reg) (result : Byte) (flag : Bool) :
    (s.setVF x result flag).getV vF = flagByte flag := (s.setV x result).getV_setV_same vF _

/-- Any other VX holds the result. -/
theorem State.getV_setVF_result (s : State) {x : Reg} (hx : x ≠ vF) (result : Byte) (flag : Bool) :
    (s.setVF x result flag).getV x = result :=
  ((s.setV x result).getV_setV_ne _ hx).trans (s.getV_setV_same x result)

/-- An instruction that advances PC and ends in a result and a flag leaves the flag in VF, the result in
VX unless VX is VF, and nothing else. -/
theorem nextWith_of_setVF {i : Instr} {s : State} {x : Reg} {result : Byte} {flag : Bool}
    (hi : exec i s = .next (s.advance.setVF x result flag).complete) :
    NextWith (exec i s) fun t =>
      (x ≠ 0xF → t.getV x = result) ∧ t.getV 0xF = flagByte flag ∧
        t.pc = s.pc + 2 ∧ Completes [.reg x, .reg 0xF] [] s t :=
  ⟨_, hi, fun hx => s.advance.getV_setVF_result hx result flag, s.advance.getV_setVF_flag x result flag, rfl,
    (((KeepsBut.refl _ s).setPc _).setVF (by simp) (by simp) result flag).completes rfl⟩

/-- The flag of a condition on natural numbers. -/
theorem flagByte_decide (c : Prop) [Decidable c] : flagByte (decide c) = if c then 1 else 0 := by
  simp only [flagByte, decide_eq_true_eq]

@[simp] theorem toNat_flagByte (c : Bool) : (flagByte c).toNat = c.toNat := by cases c <;> rfl

/-! ## Addition and subtraction (R127, R128, R130) -/

theorem exec_addReg (x y : Reg) (s : State) :
    exec (.addReg x y) s =
      .next (s.advance.setVF x (BitVec.ofNat 8 ((s.getV x).toNat + (s.getV y).toNat))
        (carryOut (s.getV x) (s.getV y))).complete := rfl

theorem exec_sub (x y : Reg) (s : State) :
    exec (.sub x y) s =
      .next (s.advance.setVF x (BitVec.ofNat 8 ((s.getV x).toNat + 256 - (s.getV y).toNat))
        (noBorrow (s.getV x) (s.getV y))).complete := rfl

theorem exec_subn (x y : Reg) (s : State) :
    exec (.subn x y) s =
      .next (s.advance.setVF x (BitVec.ofNat 8 ((s.getV y).toNat + 256 - (s.getV x).toNat))
        (noBorrow (s.getV y) (s.getV x))).complete := rfl

/-- `nextWith_of_setVF` for a result computed modulo 256 and a flag that tests a condition: the shape of
addition and both subtractions. -/
theorem nextWith_of_setVF_mod {i : Instr} {s : State} {x : Reg} {n : Nat} {c : Prop} [Decidable c]
    (hi : exec i s = .next (s.advance.setVF x (BitVec.ofNat 8 n) (decide c)).complete) :
    NextWith (exec i s) fun t =>
      (x ≠ 0xF → (t.getV x).toNat = n % 256) ∧ t.getV 0xF = (if c then 1 else 0) ∧
        t.pc = s.pc + 2 ∧ Completes [.reg x, .reg 0xF] [] s t := by
  obtain ⟨t, ht, hresult, hflag, hend⟩ := nextWith_of_setVF hi
  refine ⟨t, ht, fun hx => ?_, hflag.trans (flagByte_decide c), hend⟩
  rw [hresult hx, BitVec.toNat_ofNat]

/-- Settles O22: the carry is the test 255 < VX + VY on the operands read before any write. -/
theorem addSetsCarry : Obligations.AddSetsCarry := fun x y s =>
  nextWith_of_setVF_mod (exec_addReg x y s)

/-- Settles O23: 8XY7 is 8XY5 with minuend and subtrahend exchanged. -/
theorem subtractionsSetNoBorrow : Obligations.SubtractionsSetNoBorrow := fun x y s =>
  ⟨nextWith_of_setVF_mod (exec_sub x y s), nextWith_of_setVF_mod (exec_subn x y s)⟩

/-! ## Shifts (R129, R131) -/

theorem exec_shr (x y : Reg) (s : State) :
    exec (.shr x y) s =
      .next (s.advance.setVF x (s.getV x >>> 1) (bitOutRight (s.getV x))).complete := rfl

theorem exec_shl (x y : Reg) (s : State) :
    exec (.shl x y) s =
      .next (s.advance.setVF x (s.getV x <<< 1) (bitOutLeft (s.getV x))).complete := rfl

theorem toNat_bitOutRight (p : Byte) : (bitOutRight p).toNat = p.toNat % 2 := by
  rw [bitOutRight, BitVec.getLsbD, Nat.toNat_testBit, Nat.pow_zero, Nat.div_one]

/-- Bit 7 is the quotient by 128, because a byte is below 256. -/
theorem toNat_bitOutLeft (p : Byte) : (bitOutLeft p).toNat = p.toNat / 128 := by
  have hp := p.isLt
  rw [bitOutLeft, BitVec.getLsbD, Nat.toNat_testBit]
  omega

/-- Settles O24: the shifts halve and double the old VX, and the bits shifted out are its bits 0 and 7. -/
theorem shiftsSetBitOut : Obligations.ShiftsSetBitOut := by
  intro x y s
  constructor
  · obtain ⟨t, ht, hresult, hflag, hend⟩ := nextWith_of_setVF (exec_shr x y s)
    refine ⟨t, ht, fun hx => ?_, ?_, hend⟩
    · rw [hresult hx, BitVec.toNat_ushiftRight, Nat.shiftRight_one]
    · rw [hflag, toNat_flagByte, toNat_bitOutRight]
  · obtain ⟨t, ht, hresult, hflag, hend⟩ := nextWith_of_setVF (exec_shl x y s)
    refine ⟨t, ht, fun hx => ?_, ?_, hend⟩
    · rw [hresult hx, BitVec.toNat_shiftLeft, Nat.shiftLeft_eq, Nat.pow_one]
    · rw [hflag, toNat_flagByte, toNat_bitOutLeft]

/-! ## No-op words (R80, R101, R132) -/

section NoOps

variable {s : State} {w : Word}

/-- Class 0 but for the words of CLS and RET is SYS (R75). -/
theorem decodeClass0_of_noOp (hcls : w ≠ 0x00E0#16) (hret : w ≠ 0x00EE#16) :
    decodeClass0 w = .instr (.sys (fieldNNN w)) := by
  rw [decodeClass0, if_neg hcls, if_neg hret]

theorem decodeClass8_of_noOp (h : fieldN w ∈ [0x8#4, 0x9#4, 0xA#4, 0xB#4, 0xC#4, 0xD#4, 0xF#4]) :
    decodeClass8 w = .unknown w := by
  unfold decodeClass8
  split
  case h_10 => rfl
  all_goals next row => rw [row] at h; exact absurd h (by decide)

theorem decodeClassE_of_noOp (h : fieldNN w ∉ [0x9E#8, 0xA1#8]) : decodeClassE w = .unknown w := by
  unfold decodeClassE
  split
  case h_3 => rfl
  all_goals next row => rw [row] at h; exact absurd (by decide) h

theorem decodeClassF_of_noOp
    (h : fieldNN w ∉ [0x07#8, 0x0A#8, 0x15#8, 0x18#8, 0x1E#8, 0x29#8, 0x33#8, 0x55#8, 0x65#8]) :
    decodeClassF w = .unknown w := by
  unfold decodeClassF
  split
  case h_10 => rfl
  all_goals next row => rw [row] at h; exact absurd (by decide) h

/-- A listed no-op word decodes to SYS in class 0 and to no instruction in classes 8, E and F. -/
theorem decode_of_noOpWord (h : NoOpWord w) :
    decode w = .instr (.sys (fieldNNN w)) ∨ decode w = .unknown w := by
  rcases h with ⟨hc, hcls, hret⟩ | ⟨hc, hn⟩ | ⟨hc, hnn⟩ | ⟨hc, hnn⟩ <;> simp only [decode, hc]
  · exact .inl (decodeClass0_of_noOp hcls hret)
  · exact .inr (decodeClass8_of_noOp hn)
  · exact .inr (decodeClassE_of_noOp hnn)
  · exact .inr (decodeClassF_of_noOp hnn)

/-- On an unfaulted, loaded machine the step call executes the instruction its word decodes to (R201). -/
theorem stepCall_of_instr {i : Instr} (hfault : s.fault = none) (hloaded : s.loaded = true)
    (hfetch : fetch s = .ok w) (hdecode : decode w = .instr i) : stepCall s = exec i s := by
  simp [stepCall, hfault, hloaded, hfetch, hdecode]

/-- On an unfaulted, loaded machine a word that is no instruction executes as a no-op (R80). -/
theorem stepCall_of_unknown {u : Word} (hfault : s.fault = none) (hloaded : s.loaded = true)
    (hfetch : fetch s = .ok w) (hdecode : decode w = .unknown u) : stepCall s = execUnknown u s := by
  simp [stepCall, hfault, hloaded, hfetch, hdecode]

end NoOps

theorem exec_sys (nnn : Addr12) (s : State) : exec (.sys nnn) s = .next s.advance.complete := rfl

theorem execUnknown_eq (w : Word) (s : State) : execUnknown w s = .next s.advance.complete := rfl

/-- Settles O5: SYS and a word that is no instruction both only advance PC. -/
theorem noOpWordsOnlyAdvancePc : Obligations.NoOpWordsOnlyAdvancePc := by
  intro s w hfault hloaded hfetch hnoop
  have hstep : stepCall s = .next s.advance.complete := by
    rcases decode_of_noOpWord hnoop with hdecode | hdecode
    · exact (stepCall_of_instr hfault hloaded hfetch hdecode).trans (exec_sys _ s)
    · exact (stepCall_of_unknown hfault hloaded hfetch hdecode).trans (execUnknown_eq w s)
  exact ⟨_, hstep, rfl, completes_setPc s _⟩

end Sys2Proof.Machine

/-! SUPPORT. Clearing the display (43_display.md): the frame under a display update, the pixels of an empty
display, and the statement settled with them. -/

namespace Sys2Proof.Machine

theorem KeepsBut.setDisp {parts : List Part} {s t : State} (hp : .display ∈ parts) (h : KeepsBut parts s t)
    (d : Vector (BitVec 64) 32) : KeepsBut parts s (t.setDisp d) :=
  { h with display := fun hn => absurd hp hn }

/-- Every row of an empty display is empty, those past the grid included. -/
@[simp] theorem displayRow_replicate_zero (y : Nat) : displayRow (Vector.replicate 32 0) y = 0 := by
  rw [displayRow, Vector.getElem?_replicate]
  split
  · rfl
  · rfl

/-- After the display is replaced by an empty one, no pixel is set. -/
theorem State.pixel_setDisp_replicate_zero (s : State) (x y : Nat) :
    (s.setDisp (Vector.replicate 32 0)).pixel x y = false := by
  rw [State.pixel_setDisp, displayRow_replicate_zero]
  exact BitVec.getMsbD_zero

theorem exec_cls (s : State) :
    exec .cls s = .next (s.advance.setDisp (Vector.replicate 32 0)).complete := rfl

/-- 00E0 advances PC, leaves every pixel unset and changes nothing but the display (R162). -/
theorem exec_cls_unsets_pixels (s : State) :
    NextWith (exec .cls s) fun t =>
      (∀ x y, t.pixel x y = false) ∧ t.pc = s.pc + 2 ∧ Completes [.display] [] s t :=
  ⟨_, exec_cls s, s.advance.pixel_setDisp_replicate_zero, rfl,
    (((KeepsBut.refl [.display] s).setPc _).setDisp (by decide) _).completes rfl⟩

/-- Settles O35: the second 00E0 unsets every pixel as the first did, so both displays agree. -/
theorem clearUnsetsEveryPixel : Obligations.ClearUnsetsEveryPixel := by
  intro s
  obtain ⟨t, ht, hpixels, hpc, hcompletes⟩ := exec_cls_unsets_pixels s
  obtain ⟨u, hu, hpixels', -⟩ := exec_cls_unsets_pixels t
  exact ⟨t, ht, hpixels, hpc, hcompletes, u, hu, fun x y => (hpixels' x y).trans (hpixels x y).symm⟩

end Sys2Proof.Machine

/-! SUPPORT. The delay timer (45_timers.md): the frame under a write of DT, and the statement settled with
it. -/

namespace Sys2Proof.Machine

theorem KeepsBut.setDt {parts : List Part} {s t : State} (hp : .delayTimer ∈ parts) (h : KeepsBut parts s t)
    (b : Byte) : KeepsBut parts s (t.setDt b) :=
  { h with delayTimer := fun hn => absurd hp hn }

theorem exec_ldFromDt (x : Reg) (s : State) :
    exec (.ldFromDt x) s = .next (s.advance.setV x s.dt).complete := rfl

theorem exec_ldDt (x : Reg) (s : State) :
    exec (.ldDt x) s = .next (s.advance.setDt (s.getV x)).complete := rfl

/-- FX15 advances PC, leaves VX in DT and changes nothing else (R181). -/
theorem exec_ldDt_sets_dt (x : Reg) (s : State) :
    NextWith (exec (.ldDt x) s) fun t =>
      t.dt = s.getV x ∧ t.pc = s.pc + 2 ∧ Completes [.delayTimer] [] s t :=
  ⟨_, exec_ldDt x s, rfl, rfl,
    (((KeepsBut.refl [.delayTimer] s).setPc _).setDt (by decide) _).completes rfl⟩

/-- Settles O43: FX07 writes one register, the old DT, and FX15 writes DT, the old VX. -/
theorem delayTimerReadsAndWrites : Obligations.DelayTimerReadsAndWrites := fun x s =>
  ⟨nextWith_of_setV (exec_ldFromDt x s), exec_ldDt_sets_dt x s⟩

end Sys2Proof.Machine

/-! SUPPORT. The tick (60_exceptions.md R212): the frames under a write of ST and under what a call returns,
the timers after any number of ticks, and the statement settled with them. -/

namespace Sys2Proof.Machine

/-! ## Frames -/

section Frames

variable {parts : List Part} {s t : State}

theorem KeepsBut.setSt (hp : .soundTimer ∈ parts) (h : KeepsBut parts s t) (b : Byte) :
    KeepsBut parts s (t.setSt b) :=
  { h with soundTimer := fun hn => absurd hp hn }

/-- What a call returns to the driver lies outside every frame. -/
theorem KeepsBut.report (h : KeepsBut parts s t) (r : Option Status) (e : List ToneRequest) :
    KeepsBut parts s (t.report r e) := { h with }

end Frames

/-! ## One timer -/

theorem toNat_tickTimer (b : Byte) : (tickTimer b).toNat = b.toNat - 1 := by
  rw [← tickTimerBy_one, toNat_tickTimerBy]

theorem toNat_iterate_tickTimer (n : Nat) (b : Byte) : (tickTimer^[n] b).toNat = b.toNat - n := by
  induction n with
  | zero => rfl
  | succ n ih => rw [Function.iterate_succ_apply', toNat_tickTimer, ih, Nat.sub_sub]

/-! ## The state -/

@[simp] theorem State.tick_dt (s : State) : s.tick.dt = tickTimer s.dt := rfl

@[simp] theorem State.tick_st (s : State) : s.tick.st = tickTimer s.st := rfl

/-- A tick of the state is a tick of DT, so n ticks of the state are n ticks of DT. -/
theorem State.iterate_tick_dt (n : Nat) (s : State) : (State.tick^[n] s).dt = tickTimer^[n] s.dt :=
  Function.Semiconj.iterate_right State.tick_dt n s

theorem State.iterate_tick_st (n : Nat) (s : State) : (State.tick^[n] s).st = tickTimer^[n] s.st :=
  Function.Semiconj.iterate_right State.tick_st n s

theorem keepsBut_tick (s : State) : KeepsBut [.delayTimer, .soundTimer] s s.tick :=
  ((KeepsBut.refl _ s).setDt (by decide) _).setSt (by decide) _

theorem tickCall_eq (s : State) : tickCall s = .next (s.tick.report none []) := rfl

/-- Settles O45: the call writes the two timers and its results; the law for n ticks is that of one timer,
by induction on n. -/
theorem tickCountsDown : Obligations.TickCountsDown := by
  intro s
  refine ⟨_, tickCall_eq s, toNat_tickTimer s.dt, toNat_tickTimer s.st, rfl, rfl, rfl,
    (keepsBut_tick s).report none [], fun n => ⟨?_, ?_⟩⟩
  · rw [State.iterate_tick_dt, toNat_iterate_tickTimer]
  · rw [State.iterate_tick_st, toNat_iterate_tickTimer]

end Sys2Proof.Machine

/-! SUPPORT. The decoder against the encoder (30_encoding.md R70 to R75, R80): a word of a known class is
the encoding of its fields, so what the decoder answers encodes to the word and the word of a well formed
instruction decodes to it; and the statements settled with them. -/

namespace Sys2Proof.Machine

/-! ## What the decoder answers encodes to the word -/

section DecodedEncodes

variable {w : Word} {i : Instr}

theorem encodeNNN_of_class {c : BitVec 4} (hc : fieldC w = c) : encodeNNN c (fieldNNN w) = w :=
  hc ▸ encodeNNN_fields w

theorem encodeXNN_of_fields {c : BitVec 4} {nn : Byte} (hc : fieldC w = c) (hnn : fieldNN w = nn) :
    encodeXNN c (fieldX w) nn = w := hc ▸ hnn ▸ encodeXNN_fields w

theorem encodeXYN_of_fields {c n : BitVec 4} (hc : fieldC w = c) (hn : fieldN w = n) :
    encodeXYN c (fieldX w) (fieldY w) n = w := hc ▸ hn ▸ encodeXYN_fields w

/-- In class 0, the words of CLS and RET are told apart from SYS by NNN alone. -/
theorem sys_fieldNNN_wellFormed (hc : fieldC w = 0x0#4) (hcls : w ≠ 0x00E0#16) (hret : w ≠ 0x00EE#16) :
    (Instr.sys (fieldNNN w)).WellFormed := by
  have hw : encodeNNN 0x0#4 (fieldNNN w) = w := encodeNNN_of_class hc
  simp only [Instr.WellFormed, Instr.wellFormed, Bool.and_eq_true, bne_iff_ne]
  constructor <;> intro hn <;> rw [hn] at hw
  · exact hcls hw.symm
  · exact hret hw.symm

theorem encode_of_decodeClass0 (hc : fieldC w = 0x0#4) (h : decodeClass0 w = .instr i) :
    i.WellFormed ∧ encode i = w := by
  unfold decodeClass0 at h
  split at h
  case isTrue hw => cases h; exact ⟨rfl, hw.symm⟩
  case isFalse hcls =>
    split at h
    case isTrue hw => cases h; exact ⟨rfl, hw.symm⟩
    case isFalse hret => cases h; exact ⟨sys_fieldNNN_wellFormed hc hcls hret, encodeNNN_of_class hc⟩

theorem encode_of_decodeClass8 (hc : fieldC w = 0x8#4) (h : decodeClass8 w = .instr i) :
    i.WellFormed ∧ encode i = w := by
  unfold decodeClass8 at h
  split at h
  case h_10 => cases h
  all_goals next hn => cases h; exact ⟨rfl, encodeXYN_of_fields hc hn⟩

theorem encode_of_decodeClassE (hc : fieldC w = 0xE#4) (h : decodeClassE w = .instr i) :
    i.WellFormed ∧ encode i = w := by
  unfold decodeClassE at h
  split at h
  case h_3 => cases h
  all_goals next hnn => cases h; exact ⟨rfl, encodeXNN_of_fields hc hnn⟩

theorem encode_of_decodeClassF (hc : fieldC w = 0xF#4) (h : decodeClassF w = .instr i) :
    i.WellFormed ∧ encode i = w := by
  unfold decodeClassF at h
  split at h
  case h_10 => cases h
  all_goals next hnn => cases h; exact ⟨rfl, encodeXNN_of_fields hc hnn⟩

/-- The class of a word that is none of 0 to E is F. -/
theorem class_eq_F (c : BitVec 4) (h : c ∉ [0x0#4, 0x1#4, 0x2#4, 0x3#4, 0x4#4, 0x5#4, 0x6#4, 0x7#4, 0x8#4,
    0x9#4, 0xA#4, 0xB#4, 0xC#4, 0xD#4, 0xE#4]) : c = 0xF#4 := by
  revert c; decide

theorem encode_of_decode (h : decode w = .instr i) : i.WellFormed ∧ encode i = w := by
  unfold decode at h
  split at h
  case h_1 hc => exact encode_of_decodeClass0 hc h
  case h_9 hc => exact encode_of_decodeClass8 hc h
  case h_15 hc => exact encode_of_decodeClassE hc h
  case h_16 => exact encode_of_decodeClassF (class_eq_F _ (by simp_all)) h
  case h_2 hc | h_3 hc | h_11 hc | h_12 hc => cases h; exact ⟨rfl, encodeNNN_of_class hc⟩
  case h_4 hc | h_5 hc | h_7 hc | h_8 hc | h_13 hc => cases h; exact ⟨rfl, encodeXNN_of_fields hc rfl⟩
  case h_6 hc | h_10 hc | h_14 hc => cases h; exact ⟨rfl, encodeXYN_of_fields hc rfl⟩

end DecodedEncodes

/-! ## The word of a well formed instruction decodes to it -/

/-- The word of a well formed SYS is neither that of CLS nor that of RET. -/
theorem decodeClass0_encode_sys {nnn : Addr12} (h : (Instr.sys nnn).WellFormed) :
    decodeClass0 (encodeNNN 0x0#4 nnn) = .instr (.sys nnn) := by
  simp only [Instr.WellFormed, Instr.wellFormed, Bool.and_eq_true, bne_iff_ne] at h
  obtain ⟨hcls, hret⟩ := h
  have hne {m : Addr12} (hm : nnn ≠ m) : encodeNNN 0x0#4 nnn ≠ encodeNNN 0x0#4 m := fun e =>
    hm ((fieldNNN_encodeNNN _ nnn).symm.trans ((congrArg fieldNNN e).trans (fieldNNN_encodeNNN _ m)))
  rw [decodeClass0_of_noOp (hne hcls) (hne hret), fieldNNN_encodeNNN]

theorem decode_encode (i : Instr) (h : i.WellFormed) : decode (encode i) = .instr i := by
  cases i
  case sys nnn => simpa [decode, encode] using decodeClass0_encode_sys h
  case cls | ret => decide
  all_goals simp [decode, encode, decodeClass8, decodeClassE, decodeClassF]

/-- Settles O4: the decoder's answer encodes to the word it read, class by class, and the fields of an
instruction's word are its operands. -/
theorem decodeAndEncodeAgree : Obligations.DecodeAndEncodeAgree := fun _ i =>
  ⟨encode_of_decode, fun ⟨hwf, hw⟩ => hw ▸ decode_encode i hwf⟩

/-! ## Words that are no instruction (R80) -/

section Unknown

variable {w u : Word}

theorem fieldN_of_decodeClass8_unknown (h : decodeClass8 w = .unknown u) :
    u = w ∧ fieldN w ∈ [0x8#4, 0x9#4, 0xA#4, 0xB#4, 0xC#4, 0xD#4, 0xF#4] := by
  have rest : ∀ n : BitVec 4, n ∉ [0x0#4, 0x1#4, 0x2#4, 0x3#4, 0x4#4, 0x5#4, 0x6#4, 0x7#4, 0xE#4] →
      n ∈ [0x8#4, 0x9#4, 0xA#4, 0xB#4, 0xC#4, 0xD#4, 0xF#4] := by decide
  unfold decodeClass8 at h
  split at h
  case h_10 => cases h; exact ⟨rfl, rest _ (by simp_all)⟩
  all_goals cases h

theorem fieldNN_of_decodeClassE_unknown (h : decodeClassE w = .unknown u) :
    u = w ∧ fieldNN w ∉ [0x9E#8, 0xA1#8] := by
  unfold decodeClassE at h
  split at h
  case h_3 => cases h; exact ⟨rfl, by simp_all⟩
  all_goals cases h

theorem fieldNN_of_decodeClassF_unknown (h : decodeClassF w = .unknown u) :
    u = w ∧ fieldNN w ∉ [0x07#8, 0x0A#8, 0x15#8, 0x18#8, 0x1E#8, 0x29#8, 0x33#8, 0x55#8, 0x65#8] := by
  unfold decodeClassF at h
  split at h
  case h_10 => cases h; exact ⟨rfl, by simp_all⟩
  all_goals cases h

/-- Every word of class 0 is an instruction (R75). -/
theorem decodeClass0_ne_unknown (w u : Word) : decodeClass0 w ≠ .unknown u := by
  unfold decodeClass0
  split
  · nofun
  · split <;> nofun

theorem noOpWord_of_decode_unknown (h : decode w = .unknown u) :
    u = w ∧ NoOpWord w ∧ fieldC w ≠ 0x0#4 := by
  unfold decode at h
  split at h
  case h_1 => exact absurd h (decodeClass0_ne_unknown w u)
  case h_9 hc =>
    obtain ⟨hu, hn⟩ := fieldN_of_decodeClass8_unknown h
    exact ⟨hu, .inr (.inl ⟨hc, hn⟩), by rw [hc]; decide⟩
  case h_15 hc =>
    obtain ⟨hu, hnn⟩ := fieldNN_of_decodeClassE_unknown h
    exact ⟨hu, .inr (.inr (.inl ⟨hc, hnn⟩)), by rw [hc]; decide⟩
  case h_16 =>
    have hc : fieldC w = 0xF#4 := class_eq_F _ (by simp_all)
    obtain ⟨hu, hnn⟩ := fieldNN_of_decodeClassF_unknown h
    exact ⟨hu, .inr (.inr (.inr ⟨hc, hnn⟩)), by rw [hc]; decide⟩
  all_goals cases h

/-- Outside class 0 a listed no-op word is no instruction. -/
theorem decode_of_noOpWord_of_class_ne_zero (h : NoOpWord w) (hc : fieldC w ≠ 0x0#4) :
    decode w = .unknown w := by
  rcases decode_of_noOpWord h with hsys | hunknown
  · have hw : encode (.sys (fieldNNN w)) = w := (encode_of_decode hsys).2
    exact absurd (hw ▸ Laws.EncodeClass.sys (fieldNNN w)) hc
  · exact hunknown

end Unknown

/-- Settles O6: the fall-through arms of classes 8, E and F are the listed words, and class 0 has none. -/
theorem unknownWordsAreTheListedOnes : Obligations.UnknownWordsAreTheListedOnes := fun _ _ =>
  ⟨noOpWord_of_decode_unknown,
    by rintro ⟨rfl, hnoop, hc⟩; exact decode_of_noOpWord_of_class_ne_zero hnoop hc⟩

/-- Settles O3: the decoder evaluated on the thirteen words. -/
theorem wordsOfTheSpecDecode : Obligations.WordsOfTheSpecDecode := by
  unfold Obligations.WordsOfTheSpecDecode
  decide

end Sys2Proof.Machine

/-! SUPPORT. What executing an instruction can do, said once for all instructions (60_exceptions.md R200 to
R203): the frames under the remaining updates of State, the parts each instruction may change, its three ways
to end, and the statements about who writes what. -/

namespace Sys2Proof.Machine

/-! ## Frames -/

section Frames

variable {parts : List Part} {s t : State}

theorem KeepsBut.setI (hp : .index ∈ parts) (h : KeepsBut parts s t) (w : Word) :
    KeepsBut parts s (t.setI w) :=
  { h with index := fun hn => absurd hp hn }

/-- A write leaves every other address as it was, whether or not the list is canonical. -/
theorem Memory.read_write_of_ne (m : List Host.Cell) {a c : Nat} (b : Byte) (h : c ≠ a) :
    Memory.read (Memory.write m a b) c = Memory.read m c := by
  induction m with
  | nil => simp only [Memory.write]; split <;> simp [Memory.read, h.symm]
  | cons d m ih =>
    simp only [Memory.write]
    split
    · split
      · rfl
      · rw [Memory.read, if_neg h.symm]
    · split
      · next hd =>
        have hc : d.1 ≠ c := hd ▸ h.symm
        split <;> simp [Memory.read, h.symm, hc]
      · simp only [Memory.read, ih]

/-- Writing a list of bytes leaves every address outside it as it was. -/
theorem Memory.read_writeList_outside (bs : List Byte) (m : List Host.Cell) {a c : Nat}
    (h : ¬ (a ≤ c ∧ c < a + bs.length)) : Memory.read (Memory.writeList m a bs) c = Memory.read m c := by
  induction bs generalizing m a with
  | nil => rfl
  | cons b bs ih =>
    rw [List.length_cons] at h
    rw [Memory.writeList, ih _ (by omega), Memory.read_write_of_ne m b (by omega)]

/-- The k-th byte of a list written inside the cells reads back. -/
theorem Memory.read_writeList_at {m : List Host.Cell} {a k : Nat} {bs : List Byte}
    (hwf : Memory.wf m = true) (hfits : a + bs.length ≤ Config.memSize) (hk : k < bs.length) :
    Memory.read (Memory.writeList m a bs) (a + k) = bs.getD k 0 := by
  rw [Memory.read_writeList hwf hfits, if_pos (by omega), Nat.add_sub_cancel_left]

/-- Bytes written at `a` and on keep a frame that lists those bytes. -/
theorem KeepsBut.setMem_writeList {a : Nat} {bs : List Byte} (hp : .bytes a bs.length ∈ parts)
    (h : KeepsBut parts s t) : KeepsBut parts s (t.setMem (Memory.writeList t.mem a bs)) :=
  { h with
    memory := fun c hc =>
      (Memory.read_writeList_outside bs t.mem
        (of_decide_eq_false (Bool.eq_false_iff.mpr (List.any_eq_false.mp hc _ hp)))).trans (h.memory c hc) }

/-- A register outside a frame that lists the registers up to x is above x. -/
theorem KeepsBut.setRegs_setRegsFrom {x : Reg} {bs : List Byte} (hp : .regsUpTo x ∈ parts)
    (hlen : bs.length = x.val + 1) (h : KeepsBut parts s t) :
    KeepsBut parts s (t.setRegs (setRegsFrom t.v 0 bs)) :=
  { h with
    regs := fun z hz => by
      have hzx : ¬ z ≤ x :=
        of_decide_eq_false (Bool.eq_false_iff.mpr (List.any_eq_false.mp hz _ hp))
      have habove : ¬ (0 ≤ z.val ∧ z.val < 0 + bs.length) := by
        rw [Fin.le_def] at hzx
        omega
      have hkept : (t.setRegs (setRegsFrom t.v 0 bs)).getV z = t.getV z :=
        (getElem_setRegsFrom t.v 0 bs z.val z.isLt).trans (if_neg habove)
      exact hkept.trans (h.regs z hz) }

end Frames

/-- Taking a fault latches and returns the record and changes nothing else (R203). -/
theorem faults_raise (s : State) (w : Option Word) (f : Fault) (a : Option Nat) (u : Option FaultValue) :
    Faults ⟨f, s.pc, w, a, u⟩ s (s.raise w f a u) :=
  ⟨rfl, rfl, rfl, rfl, { KeepsBut.refl [] s with }⟩

/-- What a call returns is all that `report` changes. -/
theorem onlyReports_report (s : State) (r : Option Status) : OnlyReports r s (s.report r []) :=
  ⟨rfl, rfl, rfl, rfl, (KeepsBut.refl [] s).report r []⟩

/-! ## The parts an instruction may change, and its events -/

/-- I, for FX55 and FX65 under LOADSTORE_INCREMENTS_I (R145, R146). -/
def indexParts (s : State) : List Part := if s.params.incrementsI then [.index] else []

/-- What an instruction executed in `s` may change besides PC. -/
@[simp] def partsOf (s : State) : Instr → List Part
  | .sys _ | .jp _ | .jpV0 _ | .seImm _ _ | .sneImm _ _ | .seReg _ _ _ | .sneReg _ _ _
  | .skp _ | .sknp _ => []
  | .cls => [.display]
  | .ret | .call _ => [.stack]
  | .ldImm x _ | .addImm x _ | .rnd x _ | .ldReg x _ | .orReg x _ | .andReg x _ | .xorReg x _
  | .ldFromDt x | .waitKey x => [.reg x]
  | .addReg x _ | .sub x _ | .shr x _ | .subn x _ | .shl x _ => [.reg x, .reg vF]
  | .ldI _ | .ldFont _ => [.index]
  | .addI _ => [.index, .reg vF]
  | .drw _ _ _ => [.display, .reg vF]
  | .ldDt _ => [.delayTimer]
  | .ldSt _ => [.soundTimer]
  | .bcd _ => [.bytes s.i.toNat 3]
  | .store x => .bytes s.i.toNat (x.val + 1) :: indexParts s
  | .load x => .regsUpTo x :: indexParts s

/-- The events of an instruction that completes in `s`. -/
def eventsOf (s : State) : Instr → List ToneRequest
  | .ldSt x => toneRequests s.st (s.getV x)
  | _ => []

/-! ## The state an instruction leaves when it completes -/

/-- What a completing instruction makes of the state before it reports: its frame, and how memory, PC and the
stack move: bytes stored where a store through I is allowed; PC to one of the next two words, to a computed
target or to a return address; the stack popped, or pushed with room. -/
structure Runs (parts : List Part) (s t : State) : Prop where
  keeps : KeepsBut parts s t
  fault : t.fault = s.fault
  memory : t.mem = s.mem ∨ ∃ bs : List Byte, firstFault writeCheck s.i.toNat bs.length = none ∧
    t.mem = Memory.writeList s.mem s.i.toNat bs
  pc : t.pc = s.pc + 2 ∨ t.pc = s.pc + 4 ∨ t.pc.toNat ≤ 0x10FE ∨ t.pc ∈ s.stack
  stack : t.stack = s.stack ∨ t.stack = s.stack.dropLast ∨
    (t.stack = s.stack ++ [s.pc + 2] ∧ s.stackFull = false)

section Runs

variable {parts : List Part} {s t : State}

theorem runs_advance (parts : List Part) (s : State) : Runs parts s s.advance where
  keeps := (KeepsBut.refl parts s).setPc _
  fault := rfl
  memory := .inl rfl
  pc := .inl rfl
  stack := .inl rfl

theorem runs_skip (parts : List Part) (s : State) (c : Bool) : Runs parts s (s.advance.skipIf c) :=
  { runs_advance parts s with
    keeps := (runs_advance parts s).keeps.setPc _
    pc := by
      have hpc : (s.advance.skipIf c).pc = if c then s.pc + 4 else s.pc + 2 := s.pc_skip c
      cases c
      · exact .inl hpc
      · exact .inr (.inl hpc) }

theorem runs_jump (parts : List Part) (s : State) {w : Word} (hw : w.toNat ≤ 0x10FE) :
    Runs parts s (s.setPc w) :=
  { runs_advance parts s with keeps := (KeepsBut.refl parts s).setPc _, pc := .inr (.inr (.inl hw)) }

theorem runs_call (hp : .stack ∈ parts) (room : s.stackFull = false) {w : Word} (hw : w.toNat ≤ 0x10FE) :
    Runs parts s ((s.setStack (s.stack ++ [s.pc + 2])).setPc w) :=
  { runs_jump parts s hw with
    keeps := ((KeepsBut.refl parts s).setStack hp _).setPc _
    stack := .inr (.inr ⟨rfl, room⟩) }

theorem runs_ret (hp : .stack ∈ parts) {ra : Word} (hra : s.stack.getLast? = some ra) :
    Runs parts s ((s.setStack s.stack.dropLast).setPc ra) :=
  { runs_advance parts s with
    keeps := ((KeepsBut.refl parts s).setStack hp _).setPc _
    pc := .inr (.inr (.inr (List.mem_of_getLast? hra)))
    stack := .inr (.inl rfl) }

theorem runs_store {bs : List Byte} (hp : .bytes s.i.toNat bs.length ∈ parts)
    (allowed : firstFault writeCheck s.i.toNat bs.length = none) :
    Runs parts s (s.advance.setMem (Memory.writeList s.mem s.i.toNat bs)) :=
  { runs_advance parts s with
    keeps := (runs_advance parts s).keeps.setMem_writeList hp
    memory := .inr ⟨bs, allowed, rfl⟩ }

theorem Runs.setV {x : Reg} (hp : .reg x ∈ parts) (h : Runs parts s t) (b : Byte) :
    Runs parts s (t.setV x b) := { h with keeps := h.keeps.setV hp b }

theorem Runs.setVF {x : Reg} (hx : .reg x ∈ parts) (hf : .reg vF ∈ parts) (h : Runs parts s t)
    (result : Byte) (flag : Bool) : Runs parts s (t.setVF x result flag) :=
  { h with keeps := h.keeps.setVF hx hf result flag }

theorem Runs.setRegs_setRegsFrom {x : Reg} {bs : List Byte} (hp : .regsUpTo x ∈ parts)
    (hlen : bs.length = x.val + 1) (h : Runs parts s t) :
    Runs parts s (t.setRegs (setRegsFrom t.v 0 bs)) :=
  { h with keeps := h.keeps.setRegs_setRegsFrom hp hlen }

theorem Runs.setI (hp : .index ∈ parts) (h : Runs parts s t) (w : Word) : Runs parts s (t.setI w) :=
  { h with keeps := h.keeps.setI hp w }

theorem Runs.setDisp (hp : .display ∈ parts) (h : Runs parts s t) (d : Vector (BitVec 64) 32) :
    Runs parts s (t.setDisp d) := { h with keeps := h.keeps.setDisp hp d }

theorem Runs.setDt (hp : .delayTimer ∈ parts) (h : Runs parts s t) (b : Byte) :
    Runs parts s (t.setDt b) := { h with keeps := h.keeps.setDt hp b }

theorem Runs.setSt (hp : .soundTimer ∈ parts) (h : Runs parts s t) (b : Byte) :
    Runs parts s (t.setSt b) := { h with keeps := h.keeps.setSt hp b }

/-- With its events reported, the instruction completes. -/
theorem Runs.completes (h : Runs parts s t) (e : List ToneRequest) :
    Completes parts e s (t.report (some .ok) e) := ⟨rfl, rfl, h.fault, h.keeps.report _ e⟩

/-- I moves after FX55 and FX65 only where the parameter lists it as a part. -/
theorem Runs.setI_indexAfter {x : Reg} (hsub : indexParts s ⊆ parts) (hi : t.i = s.i)
    (h : Runs parts s t) : Runs parts s (t.setI (s.indexAfter x)) := by
  cases hinc : s.params.incrementsI
  · have hsame : t.setI (s.indexAfter x) = t := by
      rw [State.indexAfter, hinc, if_neg (by decide), ← hi]
      rfl
    exact hsame ▸ h
  · exact h.setI (hsub (by simp [indexParts, hinc])) _

end Runs

/-! ## The three ends of an instruction (R200 to R203) -/

/-- The instruction completed with its parts and events, or waits, or raised a fault whose record carries what
R202's table gives it. -/
inductive InstrEnds (i : Instr) (s : State) : State → Prop
  | completes {t : State} (hruns : Runs (partsOf s i) s t) :
      InstrEnds i s (t.report (some .ok) (eventsOf s i))
  | waits : InstrEnds i s s.wait
  | raises {f : Fault} {a : Option Nat} {u : Option FaultValue}
      (hrecord : FaultRecord.WellFormed s.params s.pc ⟨f, s.pc, some (encode i), a, u⟩) :
      InstrEnds i s (s.raise (some (encode i)) f a u)

section Records

variable {p : Params} {pc w : Word}

/-- A record of an access through memory: the offending address, outside the cells or in the font. -/
theorem wellFormed_access {f : Fault} {a : Nat}
    (h : (f = .readBounds ∨ f = .writeBounds) ∧ Config.memSize ≤ a ∨
      f = .fontWrite ∧ a < Config.fontEnd) :
    FaultRecord.WellFormed p pc ⟨f, pc, some w, some a, none⟩ := by
  rcases h with ⟨rfl | rfl, ha⟩ | ⟨rfl, ha⟩ <;> constructor <;> simp [ha]

theorem wellFormed_stackUnderflow :
    FaultRecord.WellFormed p pc ⟨.stackUnderflow, pc, some w, none, none⟩ := by
  constructor <;> simp

theorem wellFormed_stackOverflow (h : p.stackDepth.isSome = true) :
    FaultRecord.WellFormed p pc ⟨.stackOverflow, pc, some w, none, none⟩ := by
  constructor <;> simp [h]

theorem wellFormed_decodeRefused (h : p.lowNibble = .refuse) :
    FaultRecord.WellFormed p pc ⟨.decodeRefused, pc, some w, none, none⟩ := by
  constructor <;> simp [h]

theorem wellFormed_keyIndex {k : Byte} (h : 16 ≤ k.toNat) :
    FaultRecord.WellFormed p pc ⟨.keyIndex, pc, some w, none, some (.key k)⟩ := by
  constructor <;> simp [h]

theorem wellFormed_drawEdge {vx vy : Byte} (h : p.drawEdge = .fault) :
    FaultRecord.WellFormed p pc ⟨.drawEdge, pc, some w, none, some (.point vx vy)⟩ := by
  constructor <;> simp [h]

end Records

theorem readCheck_eq_some {a : Nat} {f : Fault} (h : readCheck a = some f) :
    f = .readBounds ∧ Config.memSize ≤ a := by
  unfold readCheck at h
  split at h <;> simp_all

theorem writeCheck_eq_some {a : Nat} {f : Fault} (h : writeCheck a = some f) :
    f = .writeBounds ∧ Config.memSize ≤ a ∨ f = .fontWrite ∧ a < Config.fontEnd := by
  unfold writeCheck at h
  split at h
  · simp_all
  · split at h <;> simp_all

section Ends

variable {i : Instr} {s : State}

/-- A store through I raises what its lowest offending byte raises, or ends as its `done` does. -/
theorem storeThroughI_ends {bs : List Byte} {done : State → State}
    (hdone : firstFault writeCheck s.i.toNat bs.length = none →
      InstrEnds i s (done (s.advance.setMem (Memory.writeList s.mem s.i.toNat bs)))) :
    InstrEnds i s (s.storeThroughI (encode i) bs done) := by
  rcases s.storeThroughI_cases (encode i) bs done with ⟨f, a, hfault, h⟩ | ⟨hallowed, h⟩ <;> rw [h]
  · obtain ⟨-, -, -, hcheck, -⟩ := firstFault_eq_some.mp hfault
    exact .raises
      (wellFormed_access ((writeCheck_eq_some hcheck).imp_left fun ⟨hf, ha⟩ => ⟨.inr hf, ha⟩))
  · exact hdone hallowed

/-- A load through I raises ReadBounds, or ends as its `done` does. -/
theorem loadThroughI_ends {n : Nat} {done : List Byte → State}
    (hdone : InstrEnds i s (done (Memory.readList s.mem s.i.toNat n))) :
    InstrEnds i s (s.loadThroughI (encode i) n done) := by
  rcases s.loadThroughI_cases (encode i) n done with ⟨f, a, hfault, h⟩ | ⟨-, h⟩ <;> rw [h]
  · obtain ⟨-, -, -, hcheck, -⟩ := firstFault_eq_some.mp hfault
    obtain ⟨hf, ha⟩ := readCheck_eq_some hcheck
    exact .raises (wellFormed_access (.inl ⟨.inl hf, ha⟩))
  · exact hdone

theorem lowNibble_of_nibbleRefused {n : BitVec 4} (h : s.nibbleRefused n = true) :
    s.params.lowNibble = .refuse := by
  simp only [State.nibbleRefused, Bool.and_eq_true, beq_iff_eq] at h
  exact h.1

theorem stackDepth_of_stackFull (h : s.stackFull = true) : s.params.stackDepth.isSome = true := by
  unfold State.stackFull at h
  split at h
  · cases h
  · next hd => simp [hd]

theorem toNat_zext16_le (nnn : Addr12) : (zext16 nnn).toNat ≤ 0x10FE := by
  have hn := nnn.isLt
  rw [toNat_zext16]
  omega

theorem execRet_ends (s : State) : NextWith (execRet s) (InstrEnds .ret s) := by
  refine ⟨_, rfl, ?_⟩
  split
  · exact .raises wellFormed_stackUnderflow
  · next hra => exact .completes (runs_ret (by simp) hra)

theorem execCall_ends (nnn : Addr12) (s : State) : NextWith (execCall nnn s) (InstrEnds (.call nnn) s) := by
  refine ⟨_, rfl, ?_⟩
  split
  · next hfull => exact .raises (wellFormed_stackOverflow (stackDepth_of_stackFull hfull))
  · next hroom =>
    exact .completes (runs_call (by simp) (Bool.eq_false_iff.mpr hroom) (toNat_zext16_le nnn))

/-- A skip, for an instruction that lists no part and no event. -/
theorem skip_ends (c : Bool) (hparts : partsOf s i = []) (hevents : eventsOf s i = []) :
    InstrEnds i s (s.advance.skipIf c).complete := by
  have hend := InstrEnds.completes (i := i) (hparts ▸ runs_skip [] s c)
  rwa [hevents] at hend

/-- A skip whose instruction may have its low nibble refused (R76). -/
theorem refuse_or_skip_ends (n : BitVec 4) (c : Bool) (hparts : partsOf s i = [])
    (hevents : eventsOf s i = []) :
    InstrEnds i s (if s.nibbleRefused n then s.raise (some (encode i)) .decodeRefused none none
      else (s.advance.skipIf c).complete) := by
  split
  · next hn => exact .raises (wellFormed_decodeRefused (lowNibble_of_nibbleRefused hn))
  · exact skip_ends c hparts hevents

/-- A skip on a key, refused for a VX that names none (R169). -/
theorem skipOnKey_ends (k : Byte) (want : Bool) (hparts : partsOf s i = []) (hevents : eventsOf s i = []) :
    InstrEnds i s (s.skipOnKey (encode i) k want) := by
  unfold State.skipOnKey
  split
  · next hk => exact .raises (wellFormed_keyIndex hk)
  · exact skip_ends _ hparts hevents

theorem execWaitKey_ends (x : Reg) (s : State) :
    NextWith (execWaitKey x s) (InstrEnds (.waitKey x) s) := by
  refine ⟨_, rfl, ?_⟩
  split
  · exact .waits
  · exact .completes ((runs_advance _ s).setV (by simp) _)

theorem drawSprite_ends (x y : Reg) (n : BitVec 4) (vx vy : Byte) (rows : List Byte) :
    InstrEnds (.drw x y n) s (s.drawSprite (encode (.drw x y n)) vx vy rows) := by
  unfold State.drawSprite
  split
  · next h =>
    rw [Bool.and_eq_true, beq_iff_eq] at h
    exact .raises (wellFormed_drawEdge h.1)
  · exact .completes (((runs_advance _ s).setDisp (by simp) _).setV (by simp) _)

theorem execBcd_ends (x : Reg) (s : State) : NextWith (execBcd x s) (InstrEnds (.bcd x) s) :=
  ⟨_, rfl, storeThroughI_ends fun hallowed => .completes (runs_store (by simp [bcdDigits]) hallowed)⟩

theorem execStore_ends (x : Reg) (s : State) : NextWith (execStore x s) (InstrEnds (.store x) s) :=
  ⟨_, rfl, storeThroughI_ends fun hallowed =>
    .completes ((runs_store (by simp) hallowed).setI_indexAfter (by simp) rfl)⟩

theorem execLoad_ends (x : Reg) (s : State) : NextWith (execLoad x s) (InstrEnds (.load x) s) := by
  refine ⟨_, rfl, loadThroughI_ends (.completes (Runs.setI_indexAfter (by simp) rfl ?_))⟩
  exact (runs_advance _ s).setRegs_setRegsFrom (x := x) (by simp) (by simp)

end Ends

/-- What executing an instruction can do: complete, wait, or raise a fault. -/
theorem exec_ends (i : Instr) (s : State) : NextWith (exec i s) (InstrEnds i s) := by
  cases i
  case sys => exact ⟨_, rfl, .completes (runs_advance _ s)⟩
  case cls => exact ⟨_, rfl, .completes ((runs_advance _ s).setDisp (by simp) _)⟩
  case ret => exact execRet_ends s
  case call nnn => exact execCall_ends nnn s
  case jp nnn => exact ⟨_, rfl, .completes (runs_jump _ s (toNat_zext16_le nnn))⟩
  case jpV0 nnn =>
    have htarget : (s.offsetTarget nnn).toNat ≤ 0x10FE :=
      s.toNat_offsetTarget nnn ▸ addr_add_byte_le nnn (s.getV 0)
    exact ⟨_, rfl, .completes (runs_jump _ s htarget)⟩
  case seImm | sneImm => exact ⟨_, rfl, skip_ends _ rfl rfl⟩
  case seReg | sneReg => exact ⟨_, rfl, refuse_or_skip_ends _ _ rfl rfl⟩
  case ldImm | addImm | ldReg | orReg | andReg | xorReg | rnd | ldFromDt =>
    exact ⟨_, rfl, .completes ((runs_advance _ s).setV (by simp) _)⟩
  case addReg | sub | shr | subn | shl =>
    exact ⟨_, rfl, .completes ((runs_advance _ s).setVF (by simp) (by simp) _ _)⟩
  case ldI | ldFont => exact ⟨_, rfl, .completes ((runs_advance _ s).setI (by simp) _)⟩
  case addI =>
    exact ⟨_, rfl, .completes (((runs_advance _ s).setI (by simp) _).setV (by simp) _)⟩
  case drw x y n => exact ⟨_, rfl, loadThroughI_ends (drawSprite_ends x y n _ _ _)⟩
  case skp | sknp => exact ⟨_, rfl, skipOnKey_ends _ _ rfl rfl⟩
  case waitKey x => exact execWaitKey_ends x s
  case ldDt => exact ⟨_, rfl, .completes ((runs_advance _ s).setDt (by simp) _)⟩
  case ldSt => exact ⟨_, rfl, .completes ((runs_advance _ s).setSt (by simp) _)⟩
  case bcd x => exact execBcd_ends x s
  case store x => exact execStore_ends x s
  case load x => exact execLoad_ends x s

end Sys2Proof.Machine

/-! SUPPORT. Who writes what: the frame of every end of an instruction, the instructions that list a given
part, and the statements settled with them. -/

namespace Sys2Proof.Machine

section EndFrames

variable {i : Instr} {s t : State}

/-- Executing an instruction is deterministic, so whatever it answers is one of its ends. -/
theorem instrEnds_of_exec (h : exec i s = .next t) : InstrEnds i s t := by
  obtain ⟨u, hu, hend⟩ := exec_ends i s
  cases hu.symm.trans h
  exact hend

/-- However an instruction ends, nothing but PC and the parts it lists changes. -/
theorem InstrEnds.keeps (h : InstrEnds i s t) : KeepsBut (partsOf s i) s t := by
  cases h with
  | completes h => exact h.keeps.report _ _
  | waits => exact (KeepsBut.refl _ s).report _ _
  | raises => exact (faults_raise s _ _ _ _).keeps.mono (List.nil_subset _)

theorem keeps_of_exec (h : exec i s = .next t) : KeepsBut (partsOf s i) s t := (instrEnds_of_exec h).keeps

/-- A waiting or faulting instruction emits nothing. -/
theorem InstrEnds.events_eq (h : InstrEnds i s t) : t.events = eventsOf s i ∨ t.events = [] := by
  cases h with
  | completes => exact .inl rfl
  | waits => exact .inr rfl
  | raises => exact .inr rfl

end EndFrames

/-- Settles O47: the three ends of an instruction are its three ways to end. -/
theorem instructionsEndInOneOfThreeWays : Obligations.InstructionsEndInOneOfThreeWays := by
  intro i s t h
  cases instrEnds_of_exec h with
  | completes hruns => exact .inl ⟨rfl, hruns.fault⟩
  | waits => exact .inr (.inl (onlyReports_report s _))
  | raises => exact .inr (.inr ⟨_, faults_raise s _ _ _ _, rfl, rfl⟩)

/-! ## The instructions that list a part -/

section PartsOf

variable {s : State} {i : Instr}

@[simp] theorem mem_indexParts {p : Part} :
    p ∈ indexParts s ↔ s.params.incrementsI = true ∧ p = .index := by
  unfold indexParts
  split <;> simp [*]

@[simp] theorem any_indexParts (p : Part → Bool) :
    (indexParts s).any p = (s.params.incrementsI && p .index) := by
  unfold indexParts
  split <;> simp [*]

theorem instr_of_display_mem (h : .display ∈ partsOf s i) : i = .cls ∨ ∃ x y n, i = .drw x y n := by
  cases i
  case cls => exact .inl rfl
  case drw x y n => exact .inr ⟨x, y, n, rfl⟩
  all_goals simp at h

theorem instr_of_stack_mem (h : .stack ∈ partsOf s i) : (∃ nnn, i = .call nnn) ∨ i = .ret := by
  cases i
  case call nnn => exact .inl ⟨nnn, rfl⟩
  case ret => exact .inr rfl
  all_goals simp at h

theorem instr_of_coversByte {a : Nat} (h : (partsOf s i).any (Part.coversByte a) = true) :
    ∃ x, i = .bcd x ∨ i = .store x := by
  cases i
  case bcd x => exact ⟨x, .inl rfl⟩
  case store x => exact ⟨x, .inr rfl⟩
  all_goals simp [Part.coversByte] at h

theorem instr_of_index_mem (h : .index ∈ partsOf s i) :
    (∃ nnn, i = .ldI nnn) ∨ (∃ x, i = .addI x ∨ i = .ldFont x) ∨
      (s.params.incrementsI = true ∧ ∃ x, i = .store x ∨ i = .load x) := by
  cases i
  case ldI nnn => exact .inl ⟨nnn, rfl⟩
  case addI x => exact .inr (.inl ⟨x, .inl rfl⟩)
  case ldFont x => exact .inr (.inl ⟨x, .inr rfl⟩)
  case store x => exact .inr (.inr ⟨by simpa using h, x, .inl rfl⟩)
  case load x => exact .inr (.inr ⟨by simpa using h, x, .inr rfl⟩)
  all_goals simp at h

theorem instr_of_delayTimer_mem (h : .delayTimer ∈ partsOf s i) : ∃ x, i = .ldDt x := by
  cases i
  case ldDt x => exact ⟨x, rfl⟩
  all_goals simp at h

theorem instr_of_soundTimer_mem (h : .soundTimer ∈ partsOf s i) : ∃ x, i = .ldSt x := by
  cases i
  case ldSt x => exact ⟨x, rfl⟩
  all_goals simp at h

theorem instr_of_events_ne_nil (h : eventsOf s i ≠ []) : ∃ x, i = .ldSt x := by
  cases i
  case ldSt x => exact ⟨x, rfl⟩
  all_goals exact absurd rfl h

/-- The registers up to X include VF only for X = 0xF. -/
theorem eq_vF_of_le {x : Reg} (h : 0xF ≤ x) : x = 0xF := le_antisymm (Fin.le_last x) h

/-- VF is a part of its flag writers, or the register the instruction names (R23). -/
theorem instr_of_coversReg_vF (h : (partsOf s i).any (Part.coversReg 0xF) = true) :
    (∃ x y, i = .addReg x y ∨ i = .sub x y ∨ i = .shr x y ∨ i = .subn x y ∨ i = .shl x y) ∨
    (∃ x y n, i = .drw x y n) ∨ (∃ x, i = .addI x) ∨
    (∃ nn, i = .ldImm 0xF nn ∨ i = .addImm 0xF nn ∨ i = .rnd 0xF nn) ∨
    (∃ y, i = .ldReg 0xF y ∨ i = .orReg 0xF y ∨ i = .andReg 0xF y ∨ i = .xorReg 0xF y) ∨
    i = .ldFromDt 0xF ∨ i = .waitKey 0xF ∨ i = .load 0xF := by
  cases i
  case ldImm x _ | addImm x _ | rnd x _ | ldReg x _ | orReg x _ | andReg x _ | xorReg x _ | ldFromDt x
      | waitKey x =>
    obtain rfl : 0xF = x := by simpa [Part.coversReg] using h
    simp
  case load x =>
    have hx : x = 0xF := eq_vF_of_le (by simpa [Part.coversReg] using h)
    simp [hx]
  case addReg | sub | shr | subn | shl | drw | addI => simp
  all_goals simp [Part.coversReg] at h

end PartsOf

/-! ## The statements -/

/-- Settles O53: the instructions that list the display are 00E0 and DXYN. -/
theorem displayChangesOnlyByDrawAndClear : Obligations.DisplayChangesOnlyByDrawAndClear :=
  fun _ _ _ h ⟨x, y, hxy⟩ =>
    instr_of_display_mem (by_contra fun hn => hxy ((keeps_of_exec h).display hn x y))

/-- Settles O54: the instructions that list the stack are 2NNN and 00EE. -/
theorem stackChangesOnlyByCallAndReturn : Obligations.StackChangesOnlyByCallAndReturn :=
  fun _ _ _ h hst => instr_of_stack_mem (by_contra fun hn => hst ((keeps_of_exec h).stack hn))

/-- Settles O55: the instructions that list a byte of memory are FX33 and FX55. -/
theorem memoryChangesOnlyByStores : Obligations.MemoryChangesOnlyByStores :=
  fun _ _ _ h ⟨a, ha⟩ =>
    instr_of_coversByte (Bool.eq_true_of_not_eq_false fun hn => ha ((keeps_of_exec h).memory a hn))

/-- Settles O56: the instructions that list VF are its flag writers and those that name it. -/
theorem vfChangesOnlyByItsWriters : Obligations.VfChangesOnlyByItsWriters :=
  fun _ _ _ h hv =>
    instr_of_coversReg_vF (Bool.eq_true_of_not_eq_false fun hn => hv ((keeps_of_exec h).regs 0xF hn))

/-- Settles O57: the instructions that list I, DT and ST, and the one that has events. -/
theorem indexAndTimersChangeOnlyByTheirWriters : Obligations.IndexAndTimersChangeOnlyByTheirWriters := by
  intro i s t h
  have hkeeps := keeps_of_exec h
  refine ⟨fun hi => ?_, fun hdt => ?_, fun hst => ?_, fun he => ?_⟩
  · exact instr_of_index_mem (by_contra fun hn => hi (hkeeps.index hn))
  · exact instr_of_delayTimer_mem (by_contra fun hn => hdt (hkeeps.delayTimer hn))
  · exact instr_of_soundTimer_mem (by_contra fun hn => hst (hkeeps.soundTimer hn))
  · rcases (instrEnds_of_exec h).events_eq with hevents | hnone
    · exact instr_of_events_ne_nil (hevents ▸ he)
    · exact absurd hnone he

end Sys2Proof.Machine

/-! SUPPORT. The driver's calls (60_exceptions.md R200, R201, R212, R220; 70_reset_and_hazards.md R230, R236,
R243): what the fetch and a step call can do, how each call is served, the invariant under every update and
every call, and the statements settled with them. -/

namespace Sys2Proof.Machine

/-! ## The fetch (20_memory.md R52, R53) -/

/-- The high byte weighs 256. -/
theorem toNat_wordOfBytes (hi lo : Byte) : (wordOfBytes hi lo).toNat = 256 * hi.toNat + lo.toNat := by
  rw [wordOfBytes, BitVec.toNat_append, ← Nat.shiftLeft_add_eq_or_of_lt lo.isLt, Nat.shiftLeft_eq,
    Nat.mul_comm]

/-- Settles O7: two words are equal when their values are. -/
theorem fetchReadsBigEndianWord : Obligations.FetchReadsBigEndianWord := by
  intro s w
  rw [fetch_ok_iff, ← toNat_wordOfBytes, BitVec.toNat_inj]
  rfl

/-! ## The step call (R201) -/

section StepCall

variable {s t : State}

theorem stepCall_of_fault {f : FaultRecord} (hfault : s.fault = some f) :
    stepCall s = .next (s.report (some (.fault f)) []) := by
  simp [stepCall, hfault]

theorem stepCall_of_notLoaded (hfault : s.fault = none) (hloaded : s.loaded = false) :
    stepCall s = .next (s.report (some .notLoaded) []) := by
  simp [stepCall, hfault, hloaded]

theorem stepCall_of_fetch_error {a : Nat} (hfault : s.fault = none) (hloaded : s.loaded = true)
    (hfetch : fetch s = .error a) : stepCall s = .next (s.raise none .fetchBounds (some a) none) := by
  simp [stepCall, hfault, hloaded, hfetch]

/-- What a step call can do: return the latched fault, refuse to run without an image, raise FetchBounds, or
end as an instruction does. A word that is no instruction ends as SYS does (R80). -/
inductive StepCallEnds (s : State) : State → Prop
  | latched {f : FaultRecord} (hfault : s.fault = some f) :
      StepCallEnds s (s.report (some (.fault f)) [])
  | notLoaded : StepCallEnds s (s.report (some .notLoaded) [])
  | fetchFault {a : Nat} (hloaded : s.loaded = true) (hfetch : fetch s = .error a) :
      StepCallEnds s (s.raise none .fetchBounds (some a) none)
  | ran {w : Word} {i : Instr} {t : State} (hfault : s.fault = none) (hloaded : s.loaded = true)
      (hfetch : fetch s = .ok w) (hend : InstrEnds i s t) : StepCallEnds s t

theorem stepCall_ends (s : State) : NextWith (stepCall s) (StepCallEnds s) := by
  cases hfault : s.fault with
  | some f => exact ⟨_, stepCall_of_fault hfault, .latched hfault⟩
  | none =>
    cases hloaded : s.loaded with
    | false => exact ⟨_, stepCall_of_notLoaded hfault hloaded, .notLoaded⟩
    | true =>
      cases hfetch : fetch s with
      | error a => exact ⟨_, stepCall_of_fetch_error hfault hloaded hfetch, .fetchFault hloaded hfetch⟩
      | ok w =>
        cases hdecode : decode w with
        | instr i =>
          obtain ⟨t, ht, hend⟩ := exec_ends i s
          exact ⟨t, (stepCall_of_instr hfault hloaded hfetch hdecode).trans ht,
            .ran hfault hloaded hfetch hend⟩
        | unknown u =>
          obtain ⟨t, ht, hend⟩ := exec_ends (.sys 0) s
          exact ⟨t, (stepCall_of_unknown hfault hloaded hfetch hdecode).trans ht,
            .ran hfault hloaded hfetch hend⟩

theorem stepCallEnds_of_stepCall (h : stepCall s = .next t) : StepCallEnds s t := by
  obtain ⟨u, hu, hend⟩ := stepCall_ends s
  cases hu.symm.trans h
  exact hend

/-- However a step call ends, it has a frame. -/
theorem StepCallEnds.keeps (h : StepCallEnds s t) : ∃ parts, KeepsBut parts s t := by
  cases h with
  | latched | notLoaded => exact ⟨[], (onlyReports_report s _).keeps⟩
  | fetchFault => exact ⟨[], (faults_raise s _ _ _ _).keeps⟩
  | ran _ _ _ hend => exact ⟨_, hend.keeps⟩

end StepCall

/-- Settles O8: PC + 1 past the cells is the fetch's one failure. -/
theorem fetchPastMemoryFaults : Obligations.FetchPastMemoryFaults := fun s hfault hloaded hpc =>
  ⟨_, stepCall_of_fetch_error hfault hloaded (fetch_error_iff.mpr ⟨hpc, rfl⟩), faults_raise s _ _ _ _⟩

/-- Settles O48: the latch is looked at first. -/
theorem latchedFaultHalts : Obligations.LatchedFaultHalts := fun s _ hfault =>
  ⟨_, stepCall_of_fault hfault, onlyReports_report s _⟩

/-- Settles O49: the loaded latch is looked at before the fetch. -/
theorem notLoadedRefusesToStep : Obligations.NotLoadedRefusesToStep := fun s hfault hloaded =>
  ⟨_, stepCall_of_notLoaded hfault hloaded, onlyReports_report s _⟩

/-- Settles O52: the jump sets PC to the PC it had, so the state after it differs in the results only. -/
theorem goodEndKeepsRunning : Obligations.GoodEndKeepsRunning := by
  rintro s ⟨hfault, hloaded, w, nnn, hfetch, hdecode, htarget⟩
  have hrun : stepCall s = .next (s.setPc s.pc).complete := by
    rw [stepCall_of_instr hfault hloaded hfetch hdecode, exec_jp, htarget]
  exact ⟨_, hrun, rfl, completes_setPc s s.pc, hfault, hloaded, w, nnn, hfetch, hdecode, htarget⟩

/-! ## Serving a call (R220; logs 1, 2, 8) -/

section Serving

variable {s t : State} {rest : List HostCall}

theorem step_of_free (h : s.host = []) :
    step s = onNext State.served (stepCall (s.tickBy (Config.ticks s.draws))) := by
  simp [step, drive, serveCall, h]

theorem step_of_step {k : Keys} {r : Byte} (h : s.host = .step k r :: rest) :
    step s = onNext State.served (stepCall s) := by
  simp [step, drive, serveCall, h]

theorem step_of_tick (h : s.host = .tick :: rest) : step s = onNext State.served (tickCall s) := by
  simp [step, drive, serveCall, h]

theorem step_of_load {image : Option (List Byte)} (h : s.host = .load image :: rest) :
    step s = onNext State.served (loadCall image s) := by
  simp [step, drive, serveCall, h]

theorem step_of_reset (h : s.host = .reset :: rest) : step s = onNext State.served (resetCall s) := by
  simp [step, drive, serveCall, h]

/-- Ticks touch neither the latches nor what the fetch reads. -/
theorem stepCall_tickBy_of_instr {w : Word} {i : Instr} (n : Nat) (hfault : s.fault = none)
    (hloaded : s.loaded = true) (hfetch : fetch s = .ok w) (hdecode : decode w = .instr i) :
    stepCall (s.tickBy n) = exec i (s.tickBy n) :=
  stepCall_of_instr (s := s.tickBy n) hfault hloaded hfetch hdecode

end Serving

/-- Settles O1: the head of the queue selects the call, and the word at PC the instruction. -/
theorem stepRunsDecodedInstruction : Obligations.StepRunsDecodedInstruction := by
  intro s
  refine ⟨fun _ _ _ => step_of_step, step_of_free, fun w i hfault hloaded hfetch hdecode => ⟨?_, ?_⟩⟩
  · intro k r rest h
    rw [step_of_step h, stepCall_of_instr hfault hloaded hfetch hdecode]
  · intro h
    rw [step_of_free h, stepCall_tickBy_of_instr _ hfault hloaded hfetch hdecode]

/-! ## Loads and resets (R230, R236) -/

section LoadReset

variable {s : State} {bytes : List Byte}

theorem loadCall_of_closed (h : s.loadOpen = false) (image : Option (List Byte)) :
    loadCall image s = .refused .loadOutOfTurn := by
  simp [loadCall, h]

theorem loadCall_none (h : s.loadOpen = true) :
    loadCall none s = .next (s.report (some .loadError) []) := by
  simp [loadCall, h]

theorem loadCall_of_long (h : s.loadOpen = true) (hlen : Config.maxImage < bytes.length) :
    loadCall (some bytes) s = .next (s.report (some .loadError) []) := by
  simp [loadCall, h, hlen]

theorem loadCall_of_fits (h : s.loadOpen = true) (hlen : bytes.length ≤ Config.maxImage) :
    loadCall (some bytes) s = .next (((s.setMem (Memory.writeList s.mem Config.progBase bytes)).setLoaded
      true).report (some .loadOk) []) := by
  simp [loadCall, h, Nat.not_lt.mpr hlen]

/-- The longest image ends at the last cell. -/
theorem image_fits (h : bytes.length ≤ Config.maxImage) :
    Config.progBase + bytes.length ≤ Config.memSize := by
  simp only [Config.maxImage, Config.progBase, Config.memSize] at *
  omega

theorem resetCall_zero (h : s.params.resetPolicy = .zero) : resetCall s = .next s.resetKeeping := by
  simp [resetCall, h]

theorem resetCall_arbitrary (h : s.params.resetPolicy = .arbitrary) :
    resetCall s = .next (s.resetDrawn (Config.resetDraw s.draws)) := by
  simp [resetCall, h]

/-- Above the font, an unlisted address reads as zero. -/
theorem Memory.fill_of_fontEnd_le {a : Nat} (h : Config.fontEnd ≤ a) : Memory.fill a = 0 :=
  List.getD_eq_default fontTable 0 h

end LoadReset

/-- Settles O50: an image of at most 0xDFF bytes lies inside the cells, so it is read back where it was
written. -/
theorem loadPlacesImage : Obligations.LoadPlacesImage := by
  intro s image hwf
  refine ⟨fun hopen hlen => ?_, fun hopen hlen => ?_, fun hopen => ?_, fun hclosed => ?_⟩
  · refine ⟨_, loadCall_of_fits hopen hlen, fun k hk => ?_, fun a ha => ?_, rfl, rfl, rfl, rfl, rfl, rfl,
      rfl, rfl, rfl, rfl⟩
    · exact Memory.read_writeList_at hwf (image_fits hlen) hk
    · exact Memory.read_writeList_outside image s.mem (by simp only [Config.progBase]; omega)
  · exact ⟨_, loadCall_of_long hopen hlen, onlyReports_report s _⟩
  · exact ⟨_, loadCall_none hopen, onlyReports_report s _⟩
  · exact loadCall_of_closed hclosed

/-- Settles O51: under either policy the font is intact, since the draws are used outside it only. -/
theorem resetPutsEveryPieceOfState : Obligations.ResetPutsEveryPieceOfState := by
  intro s
  cases hpolicy : s.params.resetPolicy with
  | zero =>
    refine ⟨_, resetCall_zero hpolicy, rfl, rfl, rfl, rfl, rfl, fun _ _ => rfl, fun _ => ?_⟩
    refine ⟨fun x => ?_, rfl, rfl, rfl, fun x y => ?_, fun a ha => Memory.fill_of_fontEnd_le ha⟩
    · exact Vector.getElem_replicate x.isLt
    · exact State.reset.pixel_setDisp_replicate_zero x y
  | arbitrary =>
    exact ⟨_, resetCall_arbitrary hpolicy, rfl, rfl, rfl, rfl, rfl,
      fun a ha => Memory.read_font (Memory.fontIntact_drawn _) ha, nofun⟩

/-! ## What serving a call does to the queue, the count and the turn of a load -/

section Queue

variable {s t : State}

theorem driver_of_stepCall (h : stepCall s = .next t) : t.host = s.host ∧ t.draws = s.draws := by
  obtain ⟨_, hkeeps⟩ := (stepCallEnds_of_stepCall h).keeps
  exact ⟨hkeeps.host, hkeeps.draws⟩

theorem driver_of_loadCall {image : Option (List Byte)} (h : loadCall image s = .next t) :
    t.host = s.host ∧ t.draws = s.draws := by
  unfold loadCall at h
  split at h
  · cases h
  · cases h
    split
    · exact ⟨rfl, rfl⟩
    · split <;> exact ⟨rfl, rfl⟩

theorem driver_of_resetCall (h : resetCall s = .next t) : t.host = s.host ∧ t.draws = s.draws := by
  cases h
  split <;> exact ⟨rfl, rfl⟩

/-- The call is served before it is taken off the queue. -/
theorem driver_of_serveCall (h : serveCall s = .next t) : t.host = s.host ∧ t.draws = s.draws := by
  unfold serveCall at h
  split at h
  · exact driver_of_stepCall (s := s.tickBy _) h
  · exact driver_of_stepCall h
  · cases h; exact ⟨rfl, rfl⟩
  · exact driver_of_loadCall h
  · exact driver_of_resetCall h

/-- A step is a served call, taken off the queue. -/
theorem served_of_step (h : step s = .next t) : ∃ u, serveCall s = .next u ∧ t = u.served :=
  onNext_eq_next h

end Queue

/-- Settles O2: what is taken off the queue is the call just served, since no call touches the queue. -/
theorem stepServesTickLoadReset : Obligations.StepServesTickLoadReset := by
  intro s
  refine ⟨fun _ => step_of_tick, fun _ _ => step_of_load, fun _ => step_of_reset, rfl, fun t h => ?_⟩
  obtain ⟨u, hu, rfl⟩ := served_of_step h
  obtain ⟨hhost, hdraws⟩ := driver_of_serveCall hu
  refine ⟨congrArg List.tail hhost, congrArg (· + 1) hdraws, fun rest hs => ?_, fun rest hs => ?_,
    fun k r rest hs => ?_, fun image rest hs => ?_, fun hs => ?_⟩
  case refine_2 =>
    have htick : serveCall s = tickCall s := by simp [serveCall, hs]
    cases htick.symm.trans hu
    simp [hs, loadOpenAfter, State.tick]
  all_goals simp [hhost, hs, loadOpenAfter]

/-! ## The invariant under updates -/

section Updates

variable {s t : State}

/-- A call may return a fault only when it is the latched one. -/
theorem State.Inv.report (h : s.Inv) {r : Option Status}
    (hr : ∀ f, r = some (.fault f) → s.fault = some f) (e : List ToneRequest) : (s.report r e).Inv :=
  { h with returned := hr }

/-- A fault is raised on a loaded machine, with a record as R202's table gives it. -/
theorem State.Inv.raise (h : s.Inv) (hloaded : s.loaded = true) {w : Option Word} {f : Fault}
    {a : Option Nat} {u : Option FaultValue}
    (hr : FaultRecord.WellFormed s.params s.pc ⟨f, s.pc, w, a, u⟩) : (s.raise w f a u).Inv :=
  { h with
    fresh := fun hn => Bool.noConfusion (hloaded.symm.trans hn)
    record := fun r hrec => by cases hrec; exact hr
    returned := fun r hret => by cases hret; rfl }

/-- The timers lie outside the invariant. -/
theorem State.Inv.tickBy (h : s.Inv) (n : Nat) : (s.tickBy n).Inv := { h with }

theorem State.Inv.tick (h : s.Inv) : s.tick.Inv := { h with }

theorem eq_true_or_reset_of_loadOpenAfter {calls : List HostCall} {o : Bool}
    (h : loadOpenAfter calls o = true) : o = true ∨ ∃ rest, calls = .reset :: rest := by
  unfold loadOpenAfter at h
  split at h
  · exact .inl h
  · exact .inr ⟨_, rfl⟩
  · cases h

/-- Taking a call off the queue opens the turn of a load only after a reset, which unloads the machine. -/
theorem State.Inv.served (h : s.Inv) (hreset : ∀ rest, s.host = .reset :: rest → s.loaded = false) :
    s.served.Inv :=
  { h with
    turn := fun hopen => by
      rcases eq_true_or_reset_of_loadOpenAfter hopen with hopen | ⟨rest, hrest⟩
      · exact h.turn hopen
      · exact hreset rest hrest }

/-- A store that is allowed keeps memory canonical and the font intact. -/
theorem wf_and_font_of_allowed {m : List Host.Cell} {a : Nat} {bs : List Byte}
    (hallowed : firstFault writeCheck a bs.length = none) (hwf : Memory.wf m = true)
    (hfont : Memory.fontIntact m = true) :
    Memory.wf (Memory.writeList m a bs) = true ∧ Memory.fontIntact (Memory.writeList m a bs) = true := by
  rcases writeAllowed_iff.mp hallowed with hempty | ⟨hlow, hhigh⟩
  · rw [List.length_eq_zero_iff.mp hempty]
    exact ⟨hwf, hfont⟩
  · exact ⟨Memory.wf_writeList hwf hhigh, Memory.fontIntact_writeList hfont hlow⟩

/-- An image that fits keeps the invariant, once the turn of a load is over. -/
theorem State.Inv.load (h : s.Inv) (hturn : s.loadOpen = false) {bytes : List Byte}
    (hlen : bytes.length ≤ Config.maxImage) :
    (((s.setMem (Memory.writeList s.mem Config.progBase bytes)).setLoaded true).report (some .loadOk)
      []).Inv :=
  { h with
    memory := Memory.wf_writeList h.memory (image_fits hlen)
    font := Memory.fontIntact_writeList h.font (by decide)
    fresh := nofun
    returned := nofun
    turn := fun hopen => Bool.noConfusion (hturn.symm.trans hopen) }

end Updates

/-! ## The invariant under an instruction -/

section Running

variable {parts : List Part} {s t : State}

theorem Runs.wf_and_font (h : Runs parts s t) (hs : s.Inv) :
    Memory.wf t.mem = true ∧ Memory.fontIntact t.mem = true := by
  rcases h.memory with hmem | ⟨bs, hallowed, hmem⟩ <;> rw [hmem]
  · exact ⟨hs.memory, hs.font⟩
  · exact wf_and_font_of_allowed hallowed hs.memory hs.font

/-- The address after a fetched instruction is at most 0xFFF (R27). -/
theorem next_pc_le (hpc : s.pc.toNat + 1 < Config.memSize) : (s.pc + 2).toNat ≤ 0xFFF := by
  simp only [Config.memSize] at hpc
  rw [BitVec.toNat_add, show (2 : Word).toNat = 2 from rfl]
  omega

theorem Runs.pc_le (h : Runs parts s t) (hs : s.Inv) (hpc : s.pc.toNat + 1 < Config.memSize) :
    t.pc.toNat ≤ 0x10FE := by
  rcases h.pc with hnext | hskip | htarget | hreturn
  · rw [hnext]
    exact (next_pc_le hpc).trans (by decide)
  · simp only [Config.memSize] at hpc
    rw [hskip, BitVec.toNat_add, show (4 : Word).toNat = 4 from rfl]
    omega
  · exact htarget
  · exact (hs.stack _ hreturn).trans (by decide)

theorem Runs.stack_le (h : Runs parts s t) (hs : s.Inv) (hpc : s.pc.toNat + 1 < Config.memSize) :
    ∀ ra ∈ t.stack, ra.toNat ≤ 0xFFF := by
  rcases h.stack with hst | hst | ⟨hst, -⟩ <;> rw [hst]
  · exact hs.stack
  · exact fun ra hra => hs.stack ra (List.mem_of_mem_dropLast hra)
  · intro ra hra
    rcases List.mem_append.mp hra with hra | hra
    · exact hs.stack ra hra
    · exact List.mem_singleton.mp hra ▸ next_pc_le hpc

theorem Runs.depth_le (h : Runs parts s t) (hs : s.Inv) :
    ∀ d, t.params.stackDepth = some d → t.stack.length ≤ d := by
  rw [h.keeps.params]
  intro d hd
  have hdepth := hs.depth d hd
  rcases h.stack with hst | hst | ⟨hst, hroom⟩ <;> rw [hst]
  · exact hdepth
  · exact (List.dropLast_sublist s.stack).length_le.trans hdepth
  · rw [List.length_append, List.length_singleton]
    exact s.stackFull_eq_false_iff.mp hroom d hd

/-- A completed instruction keeps the invariant of a machine that runs. -/
theorem Runs.inv (h : Runs parts s t) (hs : s.Inv) (hfault : s.fault = none) (hloaded : s.loaded = true)
    (hpc : s.pc.toNat + 1 < Config.memSize) (e : List ToneRequest) : (t.report (some .ok) e).Inv where
  memory := (h.wf_and_font hs).1
  font := (h.wf_and_font hs).2
  pc := h.pc_le hs hpc
  stack := h.stack_le hs hpc
  depth := h.depth_le hs
  fresh hn := Bool.noConfusion (hloaded.symm.trans (h.keeps.loaded.symm.trans hn))
  record _ hr := nomatch hfault.symm.trans (h.fault.symm.trans hr)
  returned := nofun
  turn hopen := h.keeps.loaded.trans (hs.turn (h.keeps.loadOpen.symm.trans hopen))

/-- The record of a failed fetch: no word, the offending address past the cells. -/
theorem wellFormed_fetchBounds {p : Params} {pc : Word} {a : Nat} (ha : Config.memSize ≤ a) :
    FaultRecord.WellFormed p pc ⟨.fetchBounds, pc, none, some a, none⟩ := by
  constructor <;> simp [ha]

theorem StepCallEnds.inv (h : StepCallEnds s t) (hs : s.Inv) : t.Inv := by
  cases h with
  | latched hfault => exact hs.report (by rintro _ ⟨⟩; exact hfault) []
  | notLoaded => exact hs.report (by nofun) []
  | fetchFault hloaded hfetch =>
    obtain ⟨-, rfl⟩ := fetch_error_iff.mp hfetch
    exact hs.raise hloaded (wellFormed_fetchBounds (Nat.le_max_right _ _))
  | ran hfault hloaded hfetch hend =>
    cases hend with
    | completes hruns => exact hruns.inv hs hfault hloaded (fetch_ok_iff.mp hfetch).1 _
    | waits => exact hs.report (by nofun) []
    | raises hrecord => exact hs.raise hloaded hrecord

end Running

/-! ## The invariant under every call -/

section Calls

variable {s u : State}

theorem inv_resetKeeping (s : State) : s.resetKeeping.Inv where
  memory := rfl
  font := rfl
  pc := by change (0x200 : Word).toNat ≤ 0x10FE; decide
  stack := nofun
  depth _ _ := Nat.zero_le _
  fresh _ := ⟨rfl, rfl, rfl⟩
  record := nofun
  returned := nofun
  turn _ := rfl

theorem inv_resetDrawn (s : State) (d : ResetDraw) : (s.resetDrawn d).Inv :=
  { inv_resetKeeping s with memory := Memory.wf_drawn d.ram, font := Memory.fontIntact_drawn d.ram }

/-- A reset leaves the invariant, whatever it comes from, and an unloaded machine. -/
theorem inv_of_resetCall (h : resetCall s = .next u) : u.Inv ∧ u.loaded = false := by
  cases h
  split
  · exact ⟨inv_resetKeeping s, rfl⟩
  · exact ⟨inv_resetDrawn s _, rfl⟩

/-- A step call that is served is no reset, so taking it off the queue keeps the invariant. -/
theorem inv_served_of_stepCall (hs : s.Inv) (hhost : ∀ rest, s.host ≠ .reset :: rest)
    (h : stepCall s = .next u) : u.served.Inv :=
  ((stepCallEnds_of_stepCall h).inv hs).served fun rest hu =>
    absurd ((driver_of_stepCall h).1.symm.trans hu) (hhost rest)

/-- A load that is served is the one load of its reset. -/
theorem inv_served_of_loadCall {image : Option (List Byte)} {rest : List HostCall} (hs : s.Inv)
    (hhost : s.host = .load image :: rest) (h : loadCall image s = .next u) : u.served.Inv := by
  have hserved : s.served.Inv := hs.served (by simp [hhost])
  cases hopen : s.loadOpen with
  | false => cases (loadCall_of_closed hopen image).symm.trans h
  | true =>
    cases image with
    | none =>
      cases (loadCall_none hopen).symm.trans h
      exact hserved.report (by nofun) []
    | some bytes =>
      rcases Nat.lt_or_ge Config.maxImage bytes.length with hlong | hfits
      · cases (loadCall_of_long hopen hlong).symm.trans h
        exact hserved.report (by nofun) []
      · cases (loadCall_of_fits hopen hfits).symm.trans h
        exact hserved.load (by simp [hhost, loadOpenAfter]) hfits

end Calls

/-- Settles O58: the state after reset is a reset's. -/
theorem resetMeetsTheInvariant : Obligations.ResetMeetsTheInvariant := ⟨inv_resetKeeping State.reset, rfl⟩

/-- Settles O59: call by call. A step ends in one of the ways of `StepCallEnds`, a tick touches the timers
only, a load writes inside the cells above the font, and a reset starts afresh. -/
theorem everyCallKeepsTheInvariant : Obligations.EveryCallKeepsTheInvariant := by
  intro s t hs h
  obtain ⟨u, hu, rfl⟩ := served_of_step h
  unfold serveCall at hu
  split at hu
  case h_1 hhost =>
    exact inv_served_of_stepCall (hs.tickBy _) (fun rest hr => nomatch hhost.symm.trans hr) hu
  case h_2 hhost => exact inv_served_of_stepCall hs (by simp [hhost]) hu
  case h_3 hhost =>
    cases hu
    exact (hs.tick.report (by nofun) []).served fun rest hr => nomatch hhost.symm.trans hr
  case h_4 hhost => exact inv_served_of_loadCall hs hhost hu
  case h_5 =>
    obtain ⟨hinv, hloaded⟩ := inv_of_resetCall hu
    exact hinv.served fun _ _ => hloaded

/-- Settles O60: the invariant holds before and after, and with the font intact the font region reads as
FONT. -/
theorem fontIsNeverOverwritten : Obligations.FontIsNeverOverwritten := by
  intro s t hs h a ha
  have hbefore : s.readByte a = Memory.fill a := Memory.read_font hs.font ha
  have hafter : t.readByte a = Memory.fill a :=
    Memory.read_font (everyCallKeepsTheInvariant s t hs h).font ha
  exact ⟨hafter.trans hbefore.symm, hafter⟩

end Sys2Proof.Machine

/-! SUPPORT. Memory through I (42_index_memory.md R140, R144 to R146): a store or load that is allowed and one
that is not, the bytes and registers after it, and the statements settled with them. -/

namespace Sys2Proof.Machine

section Access

variable {i : Instr} {s : State}

theorem State.storeThroughI_of_allowed {bs : List Byte}
    (h : firstFault writeCheck s.i.toNat bs.length = none) (w : Word) (done : State → State) :
    s.storeThroughI w bs done = done (s.advance.setMem (Memory.writeList s.mem s.i.toNat bs)) := by
  simp only [State.storeThroughI, h]

theorem State.loadThroughI_of_allowed {n : Nat} (h : firstFault readCheck s.i.toNat n = none) (w : Word)
    (done : List Byte → State) : s.loadThroughI w n done = done (Memory.readList s.mem s.i.toNat n) := by
  simp only [State.loadThroughI, h]

/-- A store that is not allowed raises the fault of its lowest offending byte. -/
theorem faults_of_store {bs : List Byte} {done : State → State} {f : Fault} {a : Nat}
    (hi : exec i s = .next (s.storeThroughI (encode i) bs done))
    (h : firstFault writeCheck s.i.toNat bs.length = some (f, a)) :
    NextWith (exec i s) (Faults ⟨f, s.pc, some (encode i), some a, none⟩ s) := by
  simp only [State.storeThroughI, h] at hi
  exact ⟨_, hi, faults_raise s _ _ _ _⟩

/-- A load that is not allowed raises the fault of its lowest offending byte. -/
theorem faults_of_load {n : Nat} {done : List Byte → State} {f : Fault} {a : Nat}
    (hi : exec i s = .next (s.loadThroughI (encode i) n done))
    (h : firstFault readCheck s.i.toNat n = some (f, a)) :
    NextWith (exec i s) (Faults ⟨f, s.pc, some (encode i), some a, none⟩ s) := by
  simp only [State.loadThroughI, h] at hi
  exact ⟨_, hi, faults_raise s _ _ _ _⟩

/-- I after FX55 and FX65 that stay inside the cells: it does not wrap. -/
theorem State.toNat_indexAfter {x : Reg} (h : s.i.toNat + x.val < 4095) :
    (s.indexAfter x).toNat = s.i.toNat + (if s.params.incrementsI = true then x.val + 1 else 0) := by
  unfold State.indexAfter
  split
  · rw [BitVec.toNat_add, BitVec.toNat_ofNat]
    omega
  · rfl

end Access

/-! ## Stores -/

theorem exec_bcd (x : Reg) (s : State) :
    exec (.bcd x) s =
      .next (s.storeThroughI (encode (.bcd x)) (bcdDigits (s.getV x)) fun t => t.complete) := rfl

theorem exec_store (x : Reg) (s : State) :
    exec (.store x) s = .next (s.storeThroughI (encode (.store x)) (s.regsUpTo x) fun t =>
      (t.setI (s.indexAfter x)).complete) := rfl

/-- The digits are decimal and make up the byte. -/
theorem bcdDigits_spec (b : Byte) :
    100 * ((bcdDigits b).getD 0 0).toNat + 10 * ((bcdDigits b).getD 1 0).toNat +
        ((bcdDigits b).getD 2 0).toNat = b.toNat ∧
      ((bcdDigits b).getD 1 0).toNat ≤ 9 ∧ ((bcdDigits b).getD 2 0).toNat ≤ 9 := by
  have hb := b.isLt
  simp only [bcdDigits, List.getD_cons_zero, List.getD_cons_succ, BitVec.toNat_ofNat]
  omega

/-- Settles O29: the three digits are written where they are read back. -/
theorem bcdStoresDecimalDigits : Obligations.BcdStoresDecimalDigits := by
  intro x s hwf hlow hhigh
  have hfits : s.i.toNat + (bcdDigits (s.getV x)).length ≤ Config.memSize := hhigh
  have hallowed : firstFault writeCheck s.i.toNat (bcdDigits (s.getV x)).length = none :=
    writeAllowed_iff.mpr (.inr ⟨hlow, hfits⟩)
  have hrun : exec (.bcd x) s = .next
      (s.advance.setMem (Memory.writeList s.mem s.i.toNat (bcdDigits (s.getV x)))).complete := by
    rw [exec_bcd, State.storeThroughI_of_allowed hallowed]
  have hread (k : Nat) (hk : k < 3) := Memory.read_writeList_at (k := k) hwf hfits hk
  have hdigits := bcdDigits_spec (s.getV x)
  rw [← hread 0 (by decide), ← hread 1 (by decide), ← hread 2 (by decide)] at hdigits
  obtain ⟨hsum, htens, hones⟩ := hdigits
  exact ⟨_, hrun, hsum, htens, hones, rfl,
    (runs_store (bs := bcdDigits (s.getV x)) (by simp [bcdDigits]) hallowed).completes []⟩

/-- Settles O30: the k-th byte written is V[k]. -/
theorem storeWritesRegisters : Obligations.StoreWritesRegisters := by
  intro x s hwf hlow hhigh
  have hfits : s.i.toNat + (s.regsUpTo x).length ≤ Config.memSize := by
    rw [State.length_regsUpTo]
    exact hhigh
  have hallowed : firstFault writeCheck s.i.toNat (s.regsUpTo x).length = none :=
    writeAllowed_iff.mpr (.inr ⟨hlow, hfits⟩)
  have hrun : exec (.store x) s = .next ((s.advance.setMem
      (Memory.writeList s.mem s.i.toNat (s.regsUpTo x))).setI (s.indexAfter x)).complete := by
    rw [exec_store, State.storeThroughI_of_allowed hallowed]
  refine ⟨_, hrun, fun k hk => ?_, State.toNat_indexAfter hhigh, rfl,
    ((runs_store (by simp) hallowed).setI (by simp) _).completes []⟩
  have hlen : k.val < (s.regsUpTo x).length := by
    rw [State.length_regsUpTo]
    exact Nat.lt_succ_of_le hk
  exact (Memory.read_writeList_at hwf hfits hlen).trans (s.getD_regsUpTo hk)

/-- Both storing instructions store a list of bytes through I. -/
theorem stores_bytes {i : Instr} {x : Reg} {n : Nat} (s : State)
    (h : (i = .bcd x ∧ n = 3) ∨ (i = .store x ∧ n = x.val + 1)) :
    n ≠ 0 ∧ ∃ bs done, bs.length = n ∧ exec i s = .next (s.storeThroughI (encode i) bs done) := by
  rcases h with ⟨rfl, rfl⟩ | ⟨rfl, rfl⟩
  · exact ⟨by decide, _, _, rfl, exec_bcd x s⟩
  · exact ⟨Nat.succ_ne_zero _, _, _, s.length_regsUpTo x, exec_store x s⟩

/-- Settles O31: the lowest offending byte is I in the font, and the first address past the cells above it. -/
theorem storesOutsideFault : Obligations.StoresOutsideFault := by
  intro i x n s hi
  obtain ⟨hn, bs, done, rfl, hrun⟩ := stores_bytes s hi
  exact ⟨fun hfont => faults_of_store hrun (writeFault_font hn hfont),
    fun hlow hhigh => faults_of_store hrun (writeFault_bounds hn hlow hhigh)⟩

/-- Settles O32: the fetch reads the two neighbouring registers that FX55 stored. -/
theorem storedBytesAreFetched : Obligations.StoredBytesAreFetched := by
  intro x k l s t hwf hlow hhigh hkx hlk hrun hpc
  obtain ⟨u, hu, hbytes, -⟩ := storeWritesRegisters x s hwf hlow hhigh
  cases hu.symm.trans hrun
  have hkx' : k.val < x.val := hkx
  have hlx : l ≤ x := Fin.le_def.mpr (by omega)
  refine fetch_ok_iff.mpr ⟨?_, ?_⟩
  · simp only [Config.memSize]
    omega
  · rw [hpc, hbytes k hkx.le, show s.i.toNat + k.val + 1 = s.i.toNat + l.val by omega, hbytes l hlx]

/-! ## Loads -/

theorem exec_load (x : Reg) (s : State) :
    exec (.load x) s = .next (s.loadThroughI (encode (.load x)) (x.val + 1) fun bs =>
      ((s.advance.setRegs (setRegsFrom s.v 0 bs)).setI (s.indexAfter x)).complete) := rfl

/-- The k-th register loaded from a list of n bytes at `a` is the k-th of them. -/
theorem getElem_setRegsFrom_readList (v : Vector Byte 16) (m : List Host.Cell) {a n : Nat} {k : Reg}
    (h : k.val < n) : (setRegsFrom v 0 (Memory.readList m a n))[k] = Memory.read m (a + k.val) := by
  have hk : (setRegsFrom v 0 (Memory.readList m a n))[k.val] = (Memory.readList m a n).getD k.val 0 := by
    rw [getElem_setRegsFrom, if_pos (by simp [h]), Nat.sub_zero]
  rw [Fin.getElem_fin, hk, List.getD_eq_getElem?_getD, Memory.getElem?_readList m h, Option.getD_some]

/-- Settles O33: the k-th byte read goes to V[k]. -/
theorem loadReadsRegisters : Obligations.LoadReadsRegisters := by
  intro x s hhigh
  have hallowed : firstFault readCheck s.i.toNat (x.val + 1) = none := readAllowed_iff.mpr (.inr hhigh)
  have hrun : exec (.load x) s = .next ((s.advance.setRegs (setRegsFrom s.v 0
      (Memory.readList s.mem s.i.toNat (x.val + 1)))).setI (s.indexAfter x)).complete := by
    rw [exec_load, State.loadThroughI_of_allowed hallowed]
  refine ⟨_, hrun, fun k hk => getElem_setRegsFrom_readList s.v s.mem (Nat.lt_succ_of_le hk),
    State.toNat_indexAfter hhigh, rfl, ?_⟩
  have hruns : Runs [.regsUpTo x, .index] s _ :=
    (runs_advance _ s).setRegs_setRegsFrom (x := x) (bs := Memory.readList s.mem s.i.toNat (x.val + 1))
      (by simp) (by simp)
  exact (hruns.setI (by simp) _).completes []

/-- Settles O34: the first address past the cells offends. -/
theorem loadOutsideFaults : Obligations.LoadOutsideFaults := fun x s h =>
  faults_of_load (exec_load x s) (readFault_eq (Nat.succ_ne_zero _) (Nat.lt_succ_of_le h))

end Sys2Proof.Machine

/-! SUPPORT. Drawing (43_display.md R160, R161, R163, R164): the set bits of a list of sprite rows, what the
draw, the collision and the edge check say of them, the ends of DXYN, and the statements settled with them. -/

namespace Sys2Proof.Machine

/-! ## The set bits of sprite rows -/

/-- The rows `bs` drawn at (x0, y0) have a set bit at (x, y): row y - y0, counted from the left column
x - x0. -/
def rowsBit (bs : List Byte) (x0 y0 x y : Nat) : Bool :=
  decide (x0 ≤ x) && decide (y0 ≤ y) && (bs.getD (y - y0) 0).getMsbD (x - x0)

section Rows

variable {x0 y0 : Nat} {b : Byte} {bs : List Byte}

theorem rowsBit_nil (x y : Nat) : rowsBit [] x0 y0 x y = false := by simp [rowsBit]

/-- A set bit lies in the first row or in the rows after it. -/
theorem rowsBit_cons {x y : Nat} :
    rowsBit (b :: bs) x0 y0 x y = true ↔
      (y = y0 ∧ x0 ≤ x ∧ b.getMsbD (x - x0) = true) ∨ rowsBit bs x0 (y0 + 1) x y = true := by
  simp only [rowsBit, Bool.and_eq_true, decide_eq_true_eq]
  rcases Nat.lt_trichotomy y y0 with hy | rfl | hy
  · simp [show ¬ y0 ≤ y by omega, show ¬ y0 + 1 ≤ y by omega, show y ≠ y0 by omega]
  · simp
  · simp [show y - y0 = (y - (y0 + 1)) + 1 by omega, show y ≠ y0 by omega, show y0 ≤ y by omega,
      show y0 + 1 ≤ y by omega]

/-- A set bit with a property lies in one of the eight columns of the first row, or in the rows after it. -/
theorem exists_rowsBit_cons {q : Nat → Nat → Prop} :
    (∃ x y, rowsBit (b :: bs) x0 y0 x y = true ∧ q x y) ↔
      (∃ c < 8, b.getMsbD c = true ∧ q (x0 + c) y0) ∨
        ∃ x y, rowsBit bs x0 (y0 + 1) x y = true ∧ q x y := by
  constructor
  · rintro ⟨x, y, hbit, hq⟩
    rcases rowsBit_cons.mp hbit with ⟨rfl, hx, hb⟩ | hrest
    · refine .inl ⟨x - x0, BitVec.lt_of_getMsbD hb, hb, ?_⟩
      rwa [Nat.add_sub_cancel' hx]
    · exact .inr ⟨x, y, hrest, hq⟩
  · rintro (⟨c, -, hb, hq⟩ | ⟨x, y, hrest, hq⟩)
    · refine ⟨x0 + c, y0, rowsBit_cons.mpr (.inl ⟨rfl, Nat.le_add_right _ _, ?_⟩), hq⟩
      rwa [Nat.add_sub_cancel_left]
    · exact ⟨x, y, rowsBit_cons.mpr (.inr hrest), hq⟩

/-- Two rows of pixels meet in a column that is set in both. -/
theorem and_ne_zero_iff {r m : BitVec 64} :
    r &&& m ≠ 0 ↔ ∃ x < 64, r.getMsbD x = true ∧ m.getMsbD x = true := by
  constructor
  · intro h
    by_contra hn
    refine h (BitVec.eq_of_getMsbD_eq fun x hx => ?_)
    rw [BitVec.getMsbD_and]
    by_contra hboth
    exact hn ⟨x, hx, by simpa using hboth⟩
  · rintro ⟨x, -, hr, hm⟩ h
    have hx := congrArg (BitVec.getMsbD · x) h
    simp [hr, hm] at hx

/-- A row of the display meets a sprite byte in one of its eight columns, on the grid. -/
theorem row_collides_iff (d : Vector (BitVec 64) 32) :
    displayRow d y0 &&& spriteMask b x0 ≠ 0 ↔
      ∃ c < 8, b.getMsbD c = true ∧
        (x0 + c < 64 ∧ y0 < 32 ∧ (displayRow d y0).getMsbD (x0 + c) = true) := by
  rw [and_ne_zero_iff]
  constructor
  · rintro ⟨x, hx, hd, hm⟩
    rw [getMsbD_spriteMask b x0 x hx, Bool.and_eq_true, decide_eq_true_eq] at hm
    obtain ⟨hle, hb⟩ := hm
    have hy : y0 < 32 := by
      by_contra hy
      simp [displayRow, Vector.getElem?_eq_none (Nat.not_lt.mp hy)] at hd
    refine ⟨x - x0, BitVec.lt_of_getMsbD hb, hb, ?_⟩
    rw [Nat.add_sub_cancel' hle]
    exact ⟨hx, hy, hd⟩
  · rintro ⟨c, -, hb, hx, -, hd⟩
    refine ⟨x0 + c, hx, hd, ?_⟩
    rw [getMsbD_spriteMask b x0 _ hx, Nat.add_sub_cancel_left, hb]
    simp

/-- The draw collides when some set bit lies on a set pixel of the grid. -/
theorem collides_iff (d : Vector (BitVec 64) 32) (x0 y0 : Nat) (bs : List Byte) :
    collides d x0 y0 bs = true ↔
      ∃ x y, rowsBit bs x0 y0 x y = true ∧ (x < 64 ∧ y < 32 ∧ (displayRow d y).getMsbD x = true) := by
  induction bs generalizing y0 with
  | nil => simp [collides, rowsBit_nil]
  | cons b bs ih => rw [collides, Bool.or_eq_true, bne_iff_ne, exists_rowsBit_cons, row_collides_iff, ih]

/-- The sprite leaves the grid when some set bit lies outside it. -/
theorem outsideGrid_iff (x0 y0 : Nat) (bs : List Byte) :
    outsideGrid x0 y0 bs = true ↔ ∃ x y, rowsBit bs x0 y0 x y = true ∧ (64 ≤ x ∨ 32 ≤ y) := by
  induction bs generalizing y0 with
  | nil => simp [outsideGrid, rowsBit_nil]
  | cons b bs ih =>
    rw [outsideGrid, Bool.or_eq_true, exists_rowsBit_cons, ih]
    simp only [List.any_eq_true, List.mem_range, Bool.and_eq_true, Bool.or_eq_true, decide_eq_true_eq]
    rfl

/-- The draw toggles the pixels of the grid under set bits. -/
theorem getMsbD_drawRows (d : Vector (BitVec 64) 32) (x0 y0 : Nat) (bs : List Byte) {x y : Nat}
    (hx : x < 64) (hy : y < 32) :
    (displayRow (drawRows d x0 y0 bs) y).getMsbD x =
      ((displayRow d y).getMsbD x ^^ rowsBit bs x0 y0 x y) := by
  rw [displayRow_drawRows d x0 y0 bs y hy]
  split
  · next hin => rw [BitVec.getMsbD_xor, getMsbD_spriteMask _ _ _ hx, rowsBit, decide_eq_true hin.1,
      Bool.and_true]
  · next hout =>
    have hclear : rowsBit bs x0 y0 x y = false := by
      by_cases hle : y0 ≤ y
      · rw [rowsBit, List.getD_eq_default _ _ (by omega)]
        simp
      · simp [rowsBit, hle]
    rw [hclear, Bool.xor_false]

/-- The N rows DXYN reads at I. -/
def State.spriteRows (s : State) (n : BitVec 4) : List Byte := Memory.readList s.mem s.i.toNat n.toNat

/-- The set bits of the rows read at I are the sprite's (R160). -/
theorem rowsBit_spriteRows (s : State) (n : BitVec 4) (x0 y0 x y : Nat) :
    rowsBit (s.spriteRows n) x0 y0 x y = true ↔ s.spriteBit n.toNat x0 y0 x y := by
  have hrow : (s.spriteRows n).getD (y - y0) 0 =
      if y - y0 < n.toNat then s.readByte (s.i.toNat + (y - y0)) else 0 := by
    rw [List.getD_eq_getElem?_getD, State.spriteRows]
    split
    · next h => rw [Memory.getElem?_readList _ h]; rfl
    · next h => rw [List.getElem?_eq_none (by simpa using h)]; rfl
  rw [rowsBit, hrow, State.spriteBit, Bool.and_eq_true, Bool.and_eq_true, decide_eq_true_eq,
    decide_eq_true_eq]
  split
  · next h =>
    rw [BitVec.getMsbD, Bool.and_eq_true, decide_eq_true_eq]
    constructor
    · rintro ⟨⟨hx, hy⟩, h8, hb⟩
      exact ⟨hx, by omega, hy, by omega, hb⟩
    · rintro ⟨hx, h8, hy, -, hb⟩
      exact ⟨⟨hx, hy⟩, by omega, hb⟩
  · next h =>
    constructor
    · intro hclear
      simp at hclear
    · rintro ⟨-, -, hy, hn, -⟩
      omega

end Rows

/-! ## The ends of DXYN (R163) -/

section Draw

variable {vx vy : Reg} {n : BitVec 4} {s : State}

theorem exec_drw (vx vy : Reg) (n : BitVec 4) (s : State) :
    exec (.drw vx vy n) s = .next (s.loadThroughI (encode (.drw vx vy n)) n.toNat
      (s.drawSprite (encode (.drw vx vy n)) (s.getV vx) (s.getV vy))) := rfl

/-- With its rows readable, DXYN ends as its draw does. -/
theorem exec_drw_of_rows (hrows : n = 0 ∨ s.i.toNat + n.toNat ≤ 4095) :
    exec (.drw vx vy n) s =
      .next (s.drawSprite (encode (.drw vx vy n)) (s.getV vx) (s.getV vy) (s.spriteRows n)) := by
  have hallowed : firstFault readCheck s.i.toNat n.toNat = none :=
    readAllowed_iff.mpr (hrows.imp_left fun h => congrArg BitVec.toNat h)
  rw [exec_drw, State.loadThroughI_of_allowed hallowed]
  rfl

/-- The rows read leave the grid exactly when the sprite does. -/
theorem outsideGrid_spriteRows (x0 y0 : Nat) :
    outsideGrid x0 y0 (s.spriteRows n) = true ↔ s.spriteLeavesGrid n.toNat x0 y0 := by
  simp only [outsideGrid_iff, rowsBit_spriteRows, State.spriteLeavesGrid]

/-- The rows read collide exactly when a set bit of the sprite lies on a set pixel. -/
theorem collides_spriteRows (x0 y0 : Nat) :
    collides s.disp x0 y0 (s.spriteRows n) = true ↔
      ∃ x < 64, ∃ y < 32, s.spriteBit n.toNat x0 y0 x y ∧ s.pixel x y = true := by
  simp only [collides_iff, rowsBit_spriteRows]
  constructor
  · rintro ⟨x, y, hbit, hx, hy, hp⟩
    exact ⟨x, hx, y, hy, hbit, hp⟩
  · rintro ⟨x, hx, y, hy, hbit, hp⟩
    exact ⟨x, y, hbit, hx, hy, hp⟩

theorem State.drawSprite_inside {w : Word} {px py : Byte} {rows : List Byte}
    (h : s.params.drawEdge = .clip ∨ outsideGrid px.toNat py.toNat rows = false) :
    s.drawSprite w px py rows = ((s.advance.setDisp (drawRows s.disp px.toNat py.toNat rows)).setV vF
      (flagByte (collides s.disp px.toNat py.toNat rows))).complete := by
  have hdraws : (s.params.drawEdge == .fault && outsideGrid px.toNat py.toNat rows) = false := by
    rcases h with h | h <;> simp [h]
  rw [State.drawSprite, hdraws, if_neg (by decide)]

theorem State.drawSprite_outside {w : Word} {px py : Byte} {rows : List Byte}
    (hedge : s.params.drawEdge = .fault) (hout : outsideGrid px.toNat py.toNat rows = true) :
    s.drawSprite w px py rows = s.raise (some w) .drawEdge none (some (.point px py)) := by
  simp [State.drawSprite, hedge, hout]

end Draw

theorem flagByte_eq_one_iff (c : Bool) : flagByte c = 1 ↔ c = true := by cases c <;> decide

theorem flagByte_eq_one_or_zero (c : Bool) : flagByte c = 1 ∨ flagByte c = 0 := by cases c <;> decide

/-- Settles O36: a set bit of the sprite turns the XOR of its pixel into a negation, and the collision looks
for the same bits. -/
theorem drawTogglesSpritePixels : Obligations.DrawTogglesSpritePixels := by
  intro vx vy n s hrows hedge
  have hinside : s.params.drawEdge = .clip ∨
      outsideGrid (s.getV vx).toNat (s.getV vy).toNat (s.spriteRows n) = false :=
    hedge.imp_right fun h => Bool.eq_false_iff.mpr (mt (outsideGrid_spriteRows _ _).mp h)
  refine ⟨_, (exec_drw_of_rows hrows).trans (congrArg _ (State.drawSprite_inside hinside)),
    fun x hx y hy => ?_, ?_, ?_, rfl,
    (((runs_advance _ s).setDisp (by simp) _).setV (by simp) _).completes []⟩
  · have hpixel := getMsbD_drawRows s.disp (s.getV vx).toNat (s.getV vy).toNat (s.spriteRows n) hx hy
    refine ⟨fun hbit => ?_, fun hbit => ?_⟩
    · rw [(rowsBit_spriteRows s n _ _ _ _).mpr hbit, Bool.xor_true] at hpixel
      exact hpixel
    · rw [Bool.eq_false_iff.mpr (mt (rowsBit_spriteRows s n _ _ _ _).mp hbit), Bool.xor_false] at hpixel
      exact hpixel
  · rw [State.complete_eq, State.getV_report, State.getV_setV_same]
    exact flagByte_eq_one_or_zero _
  · rw [State.complete_eq, State.getV_report, State.getV_setV_same, flagByte_eq_one_iff]
    exact collides_spriteRows _ _

/-- Settles O37: the rows are read before the edge is looked at. -/
theorem drawOutsideMemoryFaults : Obligations.DrawOutsideMemoryFaults := fun vx vy n s hn hhigh =>
  faults_of_load (exec_drw vx vy n s) (readFault_eq (fun h => hn (BitVec.eq_of_toNat_eq h)) hhigh)

/-- Settles O38: the edge check looks for the sprite's set bits outside the grid. -/
theorem drawOffTheGridFaults : Obligations.DrawOffTheGridFaults := fun _ _ _ s hrows hedge hleaves =>
  ⟨_, (exec_drw_of_rows hrows).trans (congrArg _ (State.drawSprite_outside hedge
    ((outsideGrid_spriteRows _ _).mpr hleaves))), faults_raise s _ _ _ _⟩

/-- The sprite depends on I and memory only. -/
theorem spriteBit_congr {s t : State} (hi : t.i = s.i) (hmem : ∀ a, t.readByte a = s.readByte a)
    {n x0 y0 x y : Nat} : t.spriteBit n x0 y0 x y ↔ s.spriteBit n x0 y0 x y := by
  simp only [State.spriteBit, hi, hmem]

/-- Settles O39: the first draw leaves the sprite, its place and the parameters, so the second toggles the
same pixels, which are then the other way round. -/
theorem drawTwiceRestoresDisplay : Obligations.DrawTwiceRestoresDisplay := by
  intro vx vy n s t u hrows hclip hvx hvy hst htu
  obtain ⟨t', ht', hfirst, -, -, -, hcompletes⟩ := drawTogglesSpritePixels vx vy n s hrows (.inl hclip)
  cases ht'.symm.trans hst
  have hkeeps := hcompletes.keeps
  have hi : t.i = s.i := hkeeps.index (by decide)
  have hx : t.getV vx = s.getV vx := hkeeps.regs vx (by simp [Part.coversReg, hvx])
  have hy : t.getV vy = s.getV vy := hkeeps.regs vy (by simp [Part.coversReg, hvy])
  have hbits {x y : Nat} := spriteBit_congr (n := n.toNat) (x0 := (s.getV vx).toNat)
    (y0 := (s.getV vy).toNat) (x := x) (y := y) hi fun a => hkeeps.memory a rfl
  obtain ⟨u', hu', hsecond, -, hflag, -⟩ :=
    drawTogglesSpritePixels vx vy n t (hi ▸ hrows) (.inl (hkeeps.params ▸ hclip))
  cases hu'.symm.trans htu
  simp only [hx, hy, hbits] at hsecond hflag
  refine ⟨fun x y => ?_, hflag.trans ?_⟩
  · by_cases hgrid : x < 64 ∧ y < 32
    · obtain ⟨hset, hclear⟩ := hfirst x hgrid.1 y hgrid.2
      obtain ⟨hset', hclear'⟩ := hsecond x hgrid.1 y hgrid.2
      by_cases hbit : s.spriteBit n.toNat (s.getV vx).toNat (s.getV vy).toNat x y
      · rw [hset' hbit, hset hbit, Bool.not_not]
      · rw [hclear' hbit, hclear hbit]
    · have hout : 64 ≤ x ∨ 32 ≤ y := by omega
      rw [u.pixel_outside hout, s.pixel_outside hout]
  · refine exists_congr fun x => and_congr_right fun hx => exists_congr fun y =>
      and_congr_right fun hy => and_congr_right fun hbit => ?_
    rw [(hfirst x hx y hy).1 hbit, Bool.not_eq_true']

end Sys2Proof.Machine

/-! SUPPORT. The instructions one by one, where their rule is not above: control transfer (40_control.md R101
to R104, R110, R111), registers (41_alu.md), the index register (42_index_memory.md R141 to R143), keys
(44_input.md) and timers (45_timers.md), and the statements settled with them. -/

namespace Sys2Proof.Machine

/-! ## Control transfer -/

/-- Settles O9: SYS only advances PC. -/
theorem sysOnlyAdvancesPc : Obligations.SysOnlyAdvancesPc := fun nnn s =>
  ⟨_, exec_sys nnn s, rfl, completes_setPc s _⟩

/-- Settles O12: a stack that is unbounded or holds fewer than its depth is not full. -/
theorem callPushesReturnAddress : Obligations.CallPushesReturnAddress := fun nnn s hroom =>
  ⟨_, exec_call_of_room nnn (s.stackFull_eq_false_iff.mpr hroom), rfl, toNat_zext16 nnn,
    completes_setStack_setPc s _ _⟩

/-- Settles O13: the last entry of the list is the top of the stack. -/
theorem returnPopsIntoPc : Obligations.ReturnPopsIntoPc := fun s _ _ hstack =>
  ⟨_, exec_ret_of_stack hstack, rfl, rfl, completes_setStack_setPc s _ _⟩

section StackFaults

variable {s : State}

theorem exec_ret_of_empty (h : s.stack = []) :
    exec .ret s = .next (s.raise (some (encode .ret)) .stackUnderflow none none) := by
  change execRet s = _
  simp [execRet, h]

theorem exec_call_of_full (nnn : Addr12) (h : s.stackFull = true) :
    exec (.call nnn) s = .next (s.raise (some (encode (.call nnn))) .stackOverflow none none) := by
  change execCall nnn s = _
  simp [execCall, h]

theorem State.stackFull_of_depth {d : Nat} (hd : s.params.stackDepth = some d) (hlen : s.stack.length = d) :
    s.stackFull = true := by
  simp [State.stackFull, hd, hlen]

end StackFaults

/-- Settles O14: 00EE looks for a top entry, 2NNN for room. -/
theorem stackBoundsFault : Obligations.StackBoundsFault :=
  ⟨fun s hempty => ⟨_, exec_ret_of_empty hempty, faults_raise s _ _ _ _⟩,
    fun nnn s _ hd hlen =>
      ⟨_, exec_call_of_full nnn (State.stackFull_of_depth hd hlen), faults_raise s _ _ _ _⟩⟩

section LowNibble

variable {n : BitVec 4} {s : State}

theorem State.nibbleRefused_eq_false (h : s.params.lowNibble = .ignore ∨ n = 0) :
    s.nibbleRefused n = false := by
  rcases h with h | h <;> simp [State.nibbleRefused, h]

theorem State.nibbleRefused_eq_true (h : s.params.lowNibble = .refuse) (hn : n ≠ 0) :
    s.nibbleRefused n = true := by
  rw [State.nibbleRefused, h, bne_iff_ne.mpr hn]
  rfl

theorem exec_seReg (x y : Reg) (n : BitVec 4) (s : State) :
    exec (.seReg x y n) s =
      .next (if s.nibbleRefused n then s.raise (some (encode (.seReg x y n))) .decodeRefused none none
        else (s.advance.skipIf (s.getV x == s.getV y)).complete) := rfl

theorem exec_sneReg (x y : Reg) (n : BitVec 4) (s : State) :
    exec (.sneReg x y n) s =
      .next (if s.nibbleRefused n then s.raise (some (encode (.sneReg x y n))) .decodeRefused none none
        else (s.advance.skipIf (s.getV x != s.getV y)).complete) := rfl

end LowNibble

/-- Settles O17: both are a skip, on VX = VY and on its negation. -/
theorem skipsOnRegisters : Obligations.SkipsOnRegisters := by
  intro x y n s h
  have hn : ¬ s.nibbleRefused n = true := by simp [State.nibbleRefused_eq_false h]
  refine ⟨⟨_, (exec_seReg x y n s).trans (congrArg _ (if_neg hn)), ?_, completes_skip s _⟩,
    ⟨_, (exec_sneReg x y n s).trans (congrArg _ (if_neg hn)), ?_, completes_skip s _⟩⟩
  · simp only [State.pc_skip, beq_iff_eq]
  · simp only [State.pc_skip, bne_iff_ne, ne_eq, ite_not]

/-- Settles O18: the low nibble is looked at before the registers. -/
theorem refusedLowNibbleFaults : Obligations.RefusedLowNibbleFaults := by
  intro x y n s hrefuse hn
  have hrefused := State.nibbleRefused_eq_true hrefuse hn
  exact ⟨⟨_, (exec_seReg x y n s).trans (congrArg _ (if_pos hrefused)), faults_raise s _ _ _ _⟩,
    ⟨_, (exec_sneReg x y n s).trans (congrArg _ (if_pos hrefused)), faults_raise s _ _ _ _⟩⟩

/-! ## Registers -/

theorem exec_addImm (x : Reg) (nn : Byte) (s : State) :
    exec (.addImm x nn) s =
      .next (s.advance.setV x (BitVec.ofNat 8 ((s.getV x).toNat + nn.toNat))).complete := rfl

theorem exec_orReg (x y : Reg) (s : State) :
    exec (.orReg x y) s = .next (s.advance.setV x (s.getV x ||| s.getV y)).complete := rfl

theorem exec_andReg (x y : Reg) (s : State) :
    exec (.andReg x y) s = .next (s.advance.setV x (s.getV x &&& s.getV y)).complete := rfl

theorem exec_xorReg (x y : Reg) (s : State) :
    exec (.xorReg x y) s = .next (s.advance.setV x (s.getV x ^^^ s.getV y)).complete := rfl

theorem exec_rnd (x : Reg) (nn : Byte) (s : State) :
    exec (.rnd x nn) s = .next (s.advance.setV x (s.rnd &&& nn)).complete := rfl

/-- Settles O20: the sum as a byte is the sum modulo 256. -/
theorem addImmediateWraps : Obligations.AddImmediateWraps := by
  intro x nn s
  obtain ⟨t, ht, hresult, hend⟩ := nextWith_of_setV (exec_addImm x nn s)
  exact ⟨t, ht, (congrArg BitVec.toNat hresult).trans (BitVec.toNat_ofNat _ 8), hend⟩

/-- Settles O21: the bits of a bitwise operation are the operation on the bits. -/
theorem logicIsBitwise : Obligations.LogicIsBitwise := by
  intro x y s
  refine ⟨?_, ?_, ?_⟩
  · obtain ⟨t, ht, hresult, hend⟩ := nextWith_of_setV (exec_orReg x y s)
    exact ⟨t, ht, fun k _ => hresult ▸ BitVec.getLsbD_or, hend⟩
  · obtain ⟨t, ht, hresult, hend⟩ := nextWith_of_setV (exec_andReg x y s)
    exact ⟨t, ht, fun k _ => hresult ▸ BitVec.getLsbD_and, hend⟩
  · obtain ⟨t, ht, hresult, hend⟩ := nextWith_of_setV (exec_xorReg x y s)
    exact ⟨t, ht, fun k _ => hresult ▸ BitVec.getLsbD_xor, hend⟩

/-- A byte with no bit outside the mask is unchanged by it. -/
theorem and_eq_self_of_and_not_eq_zero {v nn : Byte} (h : v &&& ~~~nn = 0) : v &&& nn = v :=
  calc v &&& nn = (v &&& nn) ||| (v &&& ~~~nn) := by rw [h]; exact BitVec.or_zero.symm
    _ = v &&& (nn ||| ~~~nn) := BitVec.and_or_distrib_left.symm
    _ = v := by rw [BitVec.or_not_self, BitVec.and_allOnes]

/-- Settles O25: the draw is masked, and a byte under the mask is the result of drawing it. -/
theorem randomIsMaskedByte : Obligations.RandomIsMaskedByte := by
  refine fun x nn s => ⟨nextWith_of_setV (exec_rnd x nn s), fun v k rest hv => ?_⟩
  obtain ⟨t, ht, hresult, -⟩ := nextWith_of_setV (exec_rnd x nn { s with host := .step k v :: rest })
  exact ⟨t, ht, hresult.trans (and_eq_self_of_and_not_eq_zero hv)⟩

/-! ## The index register -/

theorem exec_ldI (nnn : Addr12) (s : State) :
    exec (.ldI nnn) s = .next (s.advance.setI (zext16 nnn)).complete := rfl

theorem exec_addI (x : Reg) (s : State) :
    exec (.addI x) s =
      .next ((s.advance.setI (BitVec.ofNat 16 (s.i.toNat + (s.getV x).toNat))).setV vF
        (flagByte (indexOverflow s.i (s.getV x)))).complete := rfl

theorem exec_ldFont (x : Reg) (s : State) :
    exec (.ldFont x) s = .next (s.advance.setI (glyphAddress (s.getV x))).complete := rfl

/-- With I at the first address past the cells, every access through I faults there. -/
theorem access_at_0xFFF_faults {t : State} (hi : t.i.toNat = 0xFFF) {x y : Reg} {n : BitVec 4} {j : Instr}
    (hj : j = .load x ∨ j = .bcd x ∨ j = .store x ∨ (j = .drw x y n ∧ n ≠ 0)) :
    ∃ f, (f = .readBounds ∨ f = .writeBounds) ∧
      NextWith (exec j t) (Faults ⟨f, t.pc, some (encode j), some (max t.i.toNat 4095), none⟩ t) := by
  rcases hj with rfl | rfl | rfl | ⟨rfl, hn⟩
  · exact ⟨_, .inl rfl, loadOutsideFaults x t (by omega)⟩
  · exact ⟨_, .inr rfl, (storesOutsideFault _ x 3 t (.inl ⟨rfl, rfl⟩)).2 (by omega) (by omega)⟩
  · exact ⟨_, .inr rfl, (storesOutsideFault _ x _ t (.inr ⟨rfl, rfl⟩)).2 (by omega) (by omega)⟩
  · have hpos : n.toNat ≠ 0 := fun h => hn (BitVec.eq_of_toNat_eq h)
    exact ⟨_, .inl rfl, drawOutsideMemoryFaults x y n t hn (by omega)⟩

/-- Settles O26: ANNN with NNN = 0xFFF puts I at the first address past the cells. -/
theorem loadIndexSetsI : Obligations.LoadIndexSetsI := by
  intro nnn s
  refine ⟨_, exec_ldI nnn s, toNat_zext16 nnn, rfl, ((runs_advance _ s).setI (by simp) _).completes [],
    fun hnnn x y n j hj => ?_⟩
  have hi : (zext16 nnn).toNat = 0xFFF := (toNat_zext16 nnn).trans hnnn
  obtain ⟨f, hf, u, hu, hfaults⟩ :=
    access_at_0xFFF_faults (t := (s.advance.setI (zext16 nnn)).complete) hi hj
  have hmax : max (s.advance.setI (zext16 nnn)).complete.i.toNat 4095 = 0xFFF :=
    congrArg (max · 4095) hi
  exact ⟨u, hu, f, hf, hmax ▸ hfaults⟩

/-- Settles O27: the flag tests the sum before it wraps. -/
theorem addIndexSetsOverflow : Obligations.AddIndexSetsOverflow := fun x s =>
  ⟨_, exec_addI x s, BitVec.toNat_ofNat _ 16,
    ((s.advance.setI _).getV_setV_same vF _).trans (flagByte_decide _), rfl,
    (((runs_advance _ s).setI (by simp) _).setV (by simp) _).completes []⟩

/-- Five times a byte does not wrap. -/
theorem toNat_glyphAddress (b : Byte) : (glyphAddress b).toNat = b.toNat * 5 := by
  have hb := b.isLt
  rw [glyphAddress, BitVec.toNat_ofNat, Nat.mod_eq_of_lt (by omega)]

/-- Settles O28: VX × 5 is exact, and VX below 16 keeps the glyph in the font. -/
theorem fontAddressIsFiveTimesVx : Obligations.FontAddressIsFiveTimesVx := by
  intro x s
  have hi : (s.advance.setI (glyphAddress (s.getV x))).complete.i.toNat = (s.getV x).toNat * 5 :=
    toNat_glyphAddress (s.getV x)
  have hlt := (s.getV x).isLt
  exact ⟨_, exec_ldFont x s, hi, fun hdigit => by omega, fun hover => by omega, rfl,
    ((runs_advance _ s).setI (by simp) _).completes []⟩

/-! ## Keys -/

section Keys

variable {s : State} {k : Byte}

theorem exec_skp (x : Reg) (s : State) :
    exec (.skp x) s = .next (s.skipOnKey (encode (.skp x)) (s.getV x) true) := rfl

theorem exec_sknp (x : Reg) (s : State) :
    exec (.sknp x) s = .next (s.skipOnKey (encode (.sknp x)) (s.getV x) false) := rfl

theorem State.skipOnKey_of_lt (h : k.toNat < 16) (w : Word) (want : Bool) :
    s.skipOnKey w k want = (s.advance.skipIf (s.keys.getLsbD k.toNat == want)).complete :=
  if_neg (Nat.not_le.mpr h)

theorem State.skipOnKey_of_ge (h : 16 ≤ k.toNat) (w : Word) (want : Bool) :
    s.skipOnKey w k want = s.raise (some w) .keyIndex none (some (.key k)) := if_pos h

/-- EX9E and EXA1 skip on key VX and on its negation. -/
theorem keySkips (x : Reg) (h : (s.getV x).toNat < 16) :
    (NextWith (exec (.skp x) s) fun t =>
      t.pc = (if s.keys.getLsbD (s.getV x).toNat = true then s.pc + 4 else s.pc + 2) ∧
        Completes [] [] s t) ∧
    (NextWith (exec (.sknp x) s) fun t =>
      t.pc = (if s.keys.getLsbD (s.getV x).toNat = true then s.pc + 2 else s.pc + 4) ∧
        Completes [] [] s t) := by
  rw [exec_skp, exec_sknp, State.skipOnKey_of_lt h, State.skipOnKey_of_lt h]
  refine ⟨⟨_, rfl, ?_, completes_skip s _⟩, ⟨_, rfl, ?_, completes_skip s _⟩⟩
  · rw [State.pc_skip, beq_true]
  · rw [State.pc_skip, beq_false]
    cases s.keys.getLsbD (s.getV x).toNat <;> rfl

/-- `lowestHeld` looks for the first key held. -/
theorem lowestHeld_eq_some {keys : Keys} {k : Nat} (hk : k < 16) (hheld : keys.getLsbD k = true)
    (hlow : ∀ j < k, keys.getLsbD j = false) : lowestHeld keys = some (BitVec.ofNat 8 k) := by
  have hfind : (List.range Config.numKeys).find? (keyHeld keys) = some k :=
    List.find?_range_eq_some.mpr
      ⟨hheld, List.mem_range.mpr hk, fun j hj => by rw [keyHeld, hlow j hj, Bool.not_false]⟩
  rw [lowestHeld, hfind, Option.map_some]

theorem lowestHeld_eq_none {keys : Keys} (h : ∀ k < 16, keys.getLsbD k = false) :
    lowestHeld keys = none := by
  have hfind : (List.range Config.numKeys).find? (keyHeld keys) = none :=
    List.find?_range_eq_none.mpr fun k hk => by rw [keyHeld, h k hk, Bool.not_false]
  rw [lowestHeld, hfind, Option.map_none]

theorem exec_waitKey_of_held {b : Byte} (h : lowestHeld s.keys = some b) (x : Reg) :
    exec (.waitKey x) s = .next (s.advance.setV x b).complete := by
  change execWaitKey x s = _
  simp only [execWaitKey, h]

theorem exec_waitKey_of_none (h : lowestHeld s.keys = none) (x : Reg) :
    exec (.waitKey x) s = .next s.wait := by
  change execWaitKey x s = _
  simp only [execWaitKey, h]

end Keys

/-- Settles O40: the snapshot is that of the step call at the head of the queue. -/
theorem keySkipsFollowTheKey : Obligations.KeySkipsFollowTheKey := by
  intro x s h
  obtain ⟨hskp, hsknp⟩ := keySkips x h
  refine ⟨hskp, hsknp, fun k r rest => ?_⟩
  obtain ⟨⟨t, ht, hpc, -⟩, ⟨u, hu, hpc', -⟩⟩ :=
    keySkips (s := { s with host := .step k r :: rest }) x h
  exact ⟨⟨t, ht, hpc⟩, ⟨u, hu, hpc'⟩⟩

/-- Settles O41: VX is looked at before the snapshot. -/
theorem keyIndexAboveFifteenFaults : Obligations.KeyIndexAboveFifteenFaults := fun x s h =>
  ⟨⟨_, (exec_skp x s).trans (congrArg _ (State.skipOnKey_of_ge h _ _)), faults_raise s _ _ _ _⟩,
    ⟨_, (exec_sknp x s).trans (congrArg _ (State.skipOnKey_of_ge h _ _)), faults_raise s _ _ _ _⟩⟩

/-- Settles O42: the first key held, as a byte, is the number of the key. -/
theorem waitKeyTakesLowestHeld : Obligations.WaitKeyTakesLowestHeld := by
  intro x s
  refine ⟨fun k hk hheld hlow => ?_, fun hnone => ?_, fun _ _ _ hhost => (State.inputs_of_call hhost).1⟩
  · obtain ⟨t, ht, hresult, hend⟩ :=
      nextWith_of_setV (exec_waitKey_of_held (lowestHeld_eq_some hk hheld hlow) x)
    refine ⟨t, ht, ?_, hend⟩
    rw [hresult, BitVec.toNat_ofNat, Nat.mod_eq_of_lt (by omega)]
  · exact ⟨_, exec_waitKey_of_none (lowestHeld_eq_none hnone) x, onlyReports_report s _⟩

/-! ## Timers -/

theorem exec_ldSt (x : Reg) (s : State) :
    exec (.ldSt x) s =
      .next ((s.advance.setSt (s.getV x)).report (some .ok) (toneRequests s.st (s.getV x))) := rfl

/-- The tone request, with its condition on the values of the bytes. -/
theorem toneRequests_eq (old new : Byte) :
    toneRequests old new = if old.toNat = 0 ∧ 0 < new.toNat then
      [⟨Config.toneFreq, new.toNat * Config.toneUnit, Config.toneAmplitude, Config.toneWaveform⟩]
    else [] := by
  have hzero (b : Byte) : b.toNat = 0 ↔ b = 0 := BitVec.toNat_inj (y := (0 : Byte))
  simp only [toneRequests, Nat.pos_iff_ne_zero, ne_eq, hzero]

/-- Settles O44: ST is set and the events are the tone requests of the old and the new value. -/
theorem soundTimerAsksForTone : Obligations.SoundTimerAsksForTone := by
  intro x s
  rw [← toneRequests_eq]
  exact ⟨_, exec_ldSt x s, rfl, rfl, ((runs_advance _ s).setSt (by simp) _).completes _⟩

/-- One more tick at once is one more tick. -/
theorem tickTimerBy_succ (n : Nat) (b : Byte) : tickTimerBy (n + 1) b = tickTimer (tickTimerBy n b) := by
  apply BitVec.eq_of_toNat_eq
  rw [toNat_tickTimer, toNat_tickTimerBy, toNat_tickTimerBy, Nat.sub_sub]

theorem tickTimerBy_zero (b : Byte) : tickTimerBy 0 b = b :=
  BitVec.eq_of_toNat_eq (toNat_tickTimerBy 0 b)

theorem State.tickBy_zero (s : State) : s.tickBy 0 = s := by
  rw [State.tickBy, tickTimerBy_zero, tickTimerBy_zero]
  rfl

theorem State.tickBy_succ (n : Nat) (s : State) : s.tickBy (n + 1) = (s.tickBy n).tick := by
  rw [State.tickBy, tickTimerBy_succ, tickTimerBy_succ]
  rfl

/-- Settles O46, by induction on the number of ticks. -/
theorem ticksBetweenStepsAreTicks : Obligations.TicksBetweenStepsAreTicks := by
  intro n s
  induction n with
  | zero => exact s.tickBy_zero
  | succ n ih => rw [State.tickBy_succ, ih, Function.iterate_succ_apply']

end Sys2Proof.Machine
